-- ==== Sys2Proof/Word.lean ====
section
/-! DEFINITION. The word types of the VAP ASID engine (00_scope.md R7, R9) and the names of what a received byte
can be. Every quantity is unsigned and wraps at its width (00_scope.md R10). -/

namespace Sys2Proof

/-- A data byte of any space (R7: "Data: 8 bits everywhere"). -/
abbrev Byte := BitVec 8

/-- A 7-bit quantity: what a data byte carries (R91), a command code, the manufacturer id. -/
abbrev Septet := BitVec 7

/-- A host address or a 16-bit count (R7). -/
abbrev HostAddr := BitVec 16

/-- An address of the expansion device (R7). -/
abbrev DevAddr := BitVec 24

/-- A physical register offset of one sound chip, 0 to 24 (R7, R8). -/
abbrev Offset := Fin 25

/-- A logical register identifier of the wire protocol, 0 to 27 (R8). -/
abbrev LogicalId := Fin 28

/-- The number of a sound chip, and of its shadow array (R7). -/
abbrev Chip := Fin 2

/-- The four classes of a received byte (30_encoding.md R92). -/
inductive ByteClass where
  | frameStart
  | frameStop
  | realTime
  | data
deriving DecidableEq, Repr

/-- The part of a command that one received byte carries: the command byte itself, one payload byte, or the frame
stop that ends the frame (30_encoding.md R90; 40_framer_dispatch.md, "Template of every command rule").
DESIGN CHOICE, log entry 1. -/
inductive FramePart where
  | command
  | data (b : Byte)
  | stop
deriving DecidableEq, Repr

end Sys2Proof
end

