-- ==== Sys2Proof/Config.lean ====
section
/-! DEFINITION. What one implementation fixes: the 22 command kinds and the named parameters of 00_scope.md R6 as
plain data, and the values no source fixes as opaque constants. A State carries a Config, which no step writes, so a
statement about every State holds for every value of the parameters (93_implementation_defined.md, part 2: "A model
must keep them as parameters"). -/

namespace Sys2Proof

/-- The 22 command kinds (30_encoding.md R94, R96), in the order of the table of R96. -/
inductive Kind where
  | start | stop
  | update | update2 | updateBoth
  | run
  | load | addr | loadRect | addrRect
  | fill | fillRect | copy | copyRect
  | dmaStash | dmaFetch | dmaFill | dmaStashRect | dmaFetchRect | dmaFillRect
  | updateReg | updateReg2
deriving DecidableEq, Repr

/-- Every kind once, in the order of R96. -/
def Kind.all : List Kind :=
  [.start, .stop, .update, .update2, .updateBoth, .run, .load, .addr, .loadRect, .addrRect] ++
  [.fill, .fillRect, .copy, .copyRect, .dmaStash, .dmaFetch, .dmaFill] ++
  [.dmaStashRect, .dmaFetchRect, .dmaFillRect, .updateReg, .updateReg2]

/-- The row of a kind in the table of R96. -/
def Kind.row : Kind → Fin 22
  | .start => 0 | .stop => 1 | .update => 2 | .update2 => 3 | .updateBoth => 4 | .run => 5
  | .load => 6 | .addr => 7 | .loadRect => 8 | .addrRect => 9
  | .fill => 10 | .fillRect => 11 | .copy => 12 | .copyRect => 13
  | .dmaStash => 14 | .dmaFetch => 15 | .dmaFill => 16
  | .dmaStashRect => 17 | .dmaFetchRect => 18 | .dmaFillRect => 19
  | .updateReg => 20 | .updateReg2 => 21

/-- The payload families of 30_encoding.md R100, R101, R103, R105. -/
inductive Family where
  | none | bitmask | pairs | packed
deriving DecidableEq, Repr

/-- The payload family of a kind (the table of R96). -/
def Kind.family : Kind → Family
  | .start | .stop | .run => .none
  | .dmaStash | .dmaFetch | .dmaFill | .dmaStashRect | .dmaFetchRect | .dmaFillRect => .none
  | .update | .update2 | .updateBoth => .bitmask
  | .updateReg | .updateReg2 => .pairs
  | .load | .addr | .loadRect | .addrRect | .fill | .fillRect | .copy | .copyRect => .packed

/-- The parameters of 00_scope.md R6 and of the platform. Log entries 2 and 9. -/
structure Config where
  /-- MANUF_ID (R6); 7 bits because it must be below 0x80 (40_framer_dispatch.md R124). -/
  manufId : Septet
  /-- CMD_CODE (30_encoding.md R95), one code a row of R96. -/
  cmdCode : Vector Septet 22
  /-- IMPLEMENTED (R6), one bit a row of R96. -/
  implemented : Vector Bool 22
  /-- REGMAP (10_state.md R42). -/
  regmap : Vector Offset 28
  /-- EXEC_ENABLE (46_run.md R261). -/
  execEnable : Bool
  /-- Half-open ranges of host addresses where the platform has no plain RAM (20_memory.md R62, R75; U13). -/
  ioRanges : List (Nat × Nat)
  /-- Whether the port of chip 1 is connected (00_scope.md R7; U17). -/
  chip1Connected : Bool
deriving DecidableEq, Repr

/-- CMD_CODE[k]. -/
def Config.code (c : Config) (k : Kind) : Septet := c.cmdCode[k.row]

/-- IMPLEMENTED[k]. -/
def Config.has (c : Config) (k : Kind) : Bool := c.implemented[k.row]

/-- Whether a host address is not plain RAM. -/
def Config.isIo (c : Config) (a : HostAddr) : Bool :=
  c.ioRanges.any fun r => decide (r.1 ≤ a.toNat) && decide (a.toNat < r.2)

/-- R95: CMD_CODE is an injective map of the 22 kinds. -/
abbrev Config.codesDistinct (c : Config) : Prop := (Kind.all.map c.code).Nodup

/-- What the document fixes of REGMAP (10_state.md R42): ids 22 to 27 land on offsets 4, 11 and 18. -/
abbrev Config.regmapAliases (c : Config) : Prop :=
  ∀ i : LogicalId, 22 ≤ i.val → c.regmap[i] = 4 ∨ c.regmap[i] = 11 ∨ c.regmap[i] = 18

/-- What a byte of host RAM holds, in an epoch between two resets, before anything known was written to it: any value
(R301, U12). Log entry 7. -/
opaque Config.powerOnHost : Nat → HostAddr → Byte

/-- The same of a byte of device memory. -/
opaque Config.powerOnDevice : Nat → DevAddr → Byte

/-- The same of a register of a sound chip. -/
opaque Config.powerOnChip : Nat → Chip → Offset → Byte

/-- The next byte the platform returns where the spec says any value (U6, U13); the model's counter picks it.
Log entries 8, 9 and 10. -/
opaque Config.freeByte : Nat → Byte

end Sys2Proof
end

