-- ==== Sys2Proof/Syntax.lean ====
section
/-! DEFINITION. The instructions: one constructor a row of spec/opcode_table.json, an ASID command (00_scope.md R1),
each with the part of its frame that is being executed (log entry 1). -/

namespace Sys2Proof

/-- The 22 commands (30_encoding.md R96). -/
inductive Instr where
  /-- START, R136. -/
  | start (p : FramePart)
  /-- STOP, R137. -/
  | stop (p : FramePart)
  /-- UPDATE, R150. -/
  | update (p : FramePart)
  /-- UPDATE2, R151. -/
  | update2 (p : FramePart)
  /-- UPDATE_BOTH, R152. -/
  | updateBoth (p : FramePart)
  /-- RUN, R260. -/
  | run (p : FramePart)
  /-- LOAD, R187. -/
  | load (p : FramePart)
  /-- ADDR, R186. -/
  | addr (p : FramePart)
  /-- LOAD_RECT, R207. -/
  | loadRect (p : FramePart)
  /-- ADDR_RECT, R206. -/
  | addrRect (p : FramePart)
  /-- FILL, R215. -/
  | fill (p : FramePart)
  /-- FILL_RECT, R217. -/
  | fillRect (p : FramePart)
  /-- COPY, R219. -/
  | copy (p : FramePart)
  /-- COPY_RECT, R221. -/
  | copyRect (p : FramePart)
  /-- DMA_STASH, R235. -/
  | dmaStash (p : FramePart)
  /-- DMA_FETCH, R236. -/
  | dmaFetch (p : FramePart)
  /-- DMA_FILL, R237. -/
  | dmaFill (p : FramePart)
  /-- DMA_STASH_RECT, R238. -/
  | dmaStashRect (p : FramePart)
  /-- DMA_FETCH_RECT, R239. -/
  | dmaFetchRect (p : FramePart)
  /-- DMA_FILL_RECT, R241. -/
  | dmaFillRect (p : FramePart)
  /-- UPDATE_REG, R159. -/
  | updateReg (p : FramePart)
  /-- UPDATE_REG2, R162. -/
  | updateReg2 (p : FramePart)
deriving DecidableEq, Repr

/-- The kind of an instruction. -/
def Instr.kind : Instr → Kind
  | .start _ => .start | .stop _ => .stop
  | .update _ => .update | .update2 _ => .update2 | .updateBoth _ => .updateBoth
  | .run _ => .run
  | .load _ => .load | .addr _ => .addr | .loadRect _ => .loadRect | .addrRect _ => .addrRect
  | .fill _ => .fill | .fillRect _ => .fillRect | .copy _ => .copy | .copyRect _ => .copyRect
  | .dmaStash _ => .dmaStash | .dmaFetch _ => .dmaFetch | .dmaFill _ => .dmaFill
  | .dmaStashRect _ => .dmaStashRect | .dmaFetchRect _ => .dmaFetchRect | .dmaFillRect _ => .dmaFillRect
  | .updateReg _ => .updateReg | .updateReg2 _ => .updateReg2

/-- The part of the frame an instruction executes. -/
def Instr.part : Instr → FramePart
  | .start p | .stop p | .update p | .update2 p | .updateBoth p | .run p => p
  | .load p | .addr p | .loadRect p | .addrRect p => p
  | .fill p | .fillRect p | .copy p | .copyRect p => p
  | .dmaStash p | .dmaFetch p | .dmaFill p | .dmaStashRect p | .dmaFetchRect p | .dmaFillRect p => p
  | .updateReg p | .updateReg2 p => p

/-- The instruction of a kind and a part. -/
def Kind.instr : Kind → FramePart → Instr
  | .start => .start | .stop => .stop
  | .update => .update | .update2 => .update2 | .updateBoth => .updateBoth
  | .run => .run
  | .load => .load | .addr => .addr | .loadRect => .loadRect | .addrRect => .addrRect
  | .fill => .fill | .fillRect => .fillRect | .copy => .copy | .copyRect => .copyRect
  | .dmaStash => .dmaStash | .dmaFetch => .dmaFetch | .dmaFill => .dmaFill
  | .dmaStashRect => .dmaStashRect | .dmaFetchRect => .dmaFetchRect | .dmaFillRect => .dmaFillRect
  | .updateReg => .updateReg | .updateReg2 => .updateReg2

end Sys2Proof
end

