-- ==== Sys2Proof/WellFormed.lean ====
section
/-! DEFINITION. Which instructions and which frames are well formed: a payload byte has bit 7 clear (30_encoding.md
R91), and a frame's payload has the format of its command's family (R100, R101, R103, R105). -/

namespace Sys2Proof

/-- R91: a payload byte is a data byte, bit 7 clear. -/
def FramePart.wf : FramePart → Bool
  | .data b => !b.msb
  | .command | .stop => true

/-- A well-formed instruction. -/
def Instr.wf (i : Instr) : Bool := i.part.wf

/-- One whole frame as a sender writes it: a command and its payload bytes (R90). -/
structure Frame where
  kind : Kind
  payload : List Byte
deriving DecidableEq, Repr

/-- The parts the engine executes when it receives a whole frame, in order. -/
def Frame.parts (f : Frame) : List FramePart :=
  [.command] ++ f.payload.map .data ++ [.stop]

/-- R90, R91: every payload byte is a data byte. -/
def Frame.wf (f : Frame) : Bool := f.payload.all fun b => !b.msb

/-- The number of one bits among bits 6..0 of a byte: popcount of a data byte (00_scope.md R10). -/
def ones (b : Byte) : Nat := ((List.range 7).filter fun i => b.getLsbD i).length

/-- R101: N, the number of set bits of the four mask bytes. -/
def maskOnes (payload : List Byte) : Nat := ((payload.take 4).map ones).sum

/-- Whether a payload has the format of the family: none is empty (R100), bitmask is four masks, four high-bit bytes
and N values (R101), pairs are whole pairs (R103), packed is any byte sequence (R105). The engine checks only the
bitmask length (41_shadow_update.md R154); the rest is what a sender should send. -/
def Frame.legal (f : Frame) : Bool :=
  f.wf &&
  match f.kind.family with
  | .none => f.payload.isEmpty
  | .bitmask => decide (8 ≤ f.payload.length) && f.payload.length == 8 + maskOnes f.payload
  | .pairs => f.payload.length % 2 == 0
  | .packed => true

end Sys2Proof
end

