-- ==== Sys2Proof/Decode.lean ====
section
/-! DEFINITION. From bytes to instructions and back: the byte classes (30_encoding.md R92), the default parameters
(00_scope.md R6), the decoder of one byte in its context and of a whole frame, each rejecting by name, and after them
the encoders. -/

namespace Sys2Proof

/-- The class of a received byte, by value alone (R92). -/
def classify (b : Byte) : ByteClass :=
  if b = 0xF0#8 then .frameStart
  else if b = 0xF7#8 then .frameStop
  else if b.msb then .realTime
  else .data

/-- The default command codes, in the order of the table of R96. PRESUMED 0x4C, 0x4D, 0x4E, 0x50; the other 18 are the
spec's placeholders. Log entry 2. -/
def cmdCodeDefault : Vector Septet 22 :=
  #v[0x4C, 0x4D, 0x4E, 0x50, 0x51, 0x52, 0x53, 0x54, 0x55, 0x56,
     0x57, 0x58, 0x59, 0x5A, 0x5B, 0x5C, 0x5D, 0x5E, 0x5F, 0x60, 0x6C, 0x6D]

/-- The default REGMAP (10_state.md R42). Log entry 2. -/
def regmapDefault : Vector Offset 28 :=
  #v[0, 1, 2, 3, 5, 6, 7, 8, 9, 10, 12, 13, 14, 15,
     16, 17, 19, 20, 21, 22, 23, 24, 4, 11, 18, 4, 11, 18]

/-- The defaults of 00_scope.md R6, and a platform of plain RAM with two chips. Log entries 2 and 9. -/
def Config.standard : Config where
  manufId := 0x2D
  cmdCode := cmdCodeDefault
  implemented := Vector.replicate 22 true
  regmap := regmapDefault
  execEnable := true
  ioRanges := []
  chip1Connected := true

/-- Why bytes are no instruction, or no frame. -/
inductive Reject where
  /-- A status byte where a command byte is due (R99; 40_framer_dispatch.md R123). -/
  | statusByte (b : Byte)
  /-- A data byte that is the code of no implemented kind (R97). -/
  | unknownCommand (b : Byte)
  /-- A byte that belongs to no frame part: a frame start or a real-time byte inside a frame. -/
  | notAPart (b : Byte)
  /-- A frame does not begin with 0xF0 (R90). -/
  | noFrameStart (b : Byte)
  /-- The byte after 0xF0 is not MANUF_ID (R98). -/
  | foreignManufacturer (b : Byte)
  /-- The bytes end inside a frame. -/
  | unterminated
deriving DecidableEq, Repr

/-- R95: the kind a command code selects, if any. -/
def kindOf (c : Config) (b : Septet) : Option Kind :=
  Kind.all.find? fun k => c.code k == b && c.has k

/-- The decoder of the command byte (R92, R95, R97): the byte the engine takes in DISPATCH. -/
def decodeCommand (c : Config) (b : Byte) : Except Reject Instr :=
  match classify b with
  | .data =>
    match kindOf c (b.setWidth 7) with
    | some k => .ok (k.instr .command)
    | none => .error (.unknownCommand b)
  | .frameStart | .frameStop | .realTime => .error (.statusByte b)

/-- The decoder of a byte inside a frame of kind k: a payload byte or the frame stop (R90). -/
def decodeInFrame (k : Kind) (b : Byte) : Except Reject Instr :=
  match classify b with
  | .data => .ok (k.instr (.data b))
  | .frameStop => .ok (k.instr .stop)
  | .frameStart | .realTime => .error (.notAPart b)

/-- The decoder of one byte in its context: none where a command byte is due, some k inside a frame of kind k. -/
def decodeAt (c : Config) : Option Kind → Byte → Except Reject Instr
  | none, b => decodeCommand c b
  | some k, b => decodeInFrame k b

/-- Real-time bytes may stand between any two bytes of a frame and are no part of it (R90). -/
def skipRealTime : List Byte → List Byte
  | [] => []
  | b :: bs => if classify b = .realTime then skipRealTime bs else b :: bs

/-- The payload up to the frame stop, and what follows it (R93). -/
def decodePayload : List Byte → Except Reject (List Byte × List Byte)
  | [] => .error .unterminated
  | b :: bs =>
    match classify b with
    | .frameStop => .ok ([], bs)
    | .frameStart => .error (.notAPart b)
    | .realTime => decodePayload bs
    | .data => (decodePayload bs).map fun r => (b :: r.1, r.2)

/-- The command byte and the payload (R90). -/
def decodeBody (c : Config) (bs : List Byte) : Except Reject (Frame × List Byte) :=
  match skipRealTime bs with
  | [] => .error .unterminated
  | b :: bs =>
    match decodeCommand c b with
    | .error e => .error e
    | .ok i => (decodePayload bs).map fun r => (⟨i.kind, r.1⟩, r.2)

/-- The manufacturer byte, the command byte and the payload (R90, R98). -/
def decodeAddressed (c : Config) (bs : List Byte) : Except Reject (Frame × List Byte) :=
  match skipRealTime bs with
  | [] => .error .unterminated
  | b :: bs =>
    if b = c.manufId.setWidth 8 then decodeBody c bs else .error (.foreignManufacturer b)

/-- A whole frame at the front of a byte sequence (R90), with the bytes after it. -/
def decodeFrame (c : Config) (bs : List Byte) : Except Reject (Frame × List Byte) :=
  match skipRealTime bs with
  | [] => .error .unterminated
  | b :: bs => if b = 0xF0#8 then decodeAddressed c bs else .error (.noFrameStart b)

/-- The bytes of a table word, the first in its lowest bits. -/
def tableBytes (nbits w : Nat) : List Byte :=
  (List.range (nbits / 8)).map fun i => BitVec.ofNat 8 (w >>> (8 * i))

/-- What the decoder reads from an opcode-table word: a row's word is its command byte (opcode_table.json,
"match_applies_to"). Log entry 17. -/
def decodeTableWord (nbits w : Nat) : Option Instr :=
  match tableBytes nbits w with
  | [] => none
  | b :: _ => (decodeCommand Config.standard b).toOption

/-- The byte of a frame part of kind k (R90, R91). -/
def encodePart (c : Config) (k : Kind) : FramePart → Byte
  | .command => (c.code k).setWidth 8
  | .data b => b
  | .stop => 0xF7#8

/-- The encoder of an instruction: one byte. -/
def encode (c : Config) (i : Instr) : List Byte := [encodePart c i.kind i.part]

/-- The context in which an instruction's byte stands. -/
def Instr.context (i : Instr) : Option Kind :=
  match i.part with
  | .command => none
  | .data _ | .stop => some i.kind

/-- The bytes of a whole frame (R90, R108). -/
def encodeFrame (c : Config) (f : Frame) : List Byte :=
  [0xF0#8, c.manufId.setWidth 8] ++ f.parts.map (encodePart c f.kind)

end Sys2Proof
end

