-- ==== Sys2Proof/Machine/State.lean ====
section
/-! DEFINITION. The state of the machine as plain data: every register of 10_state.md R20, the environment of R46 as
`plat`, and the parameters of 00_scope.md R6 as `cfg`. -/

namespace Sys2Proof.Machine

/-- FSTATE, the framer state (10_state.md R21). -/
inductive FState where
  | idle | awaitManuf | dispatch | data
deriving DecidableEq, Repr

/-- The four parameter records (10_state.md R35, R36, R38). -/
inductive Record where
  | addr | rect | fill | copy
deriving DecidableEq, Repr

/-- The target of the loader: host memory at the cursor, or a record (10_state.md R23). -/
inductive Target where
  | mem
  | record (r : Record)
deriving DecidableEq, Repr

/-- DH, the current data handler (10_state.md R23). -/
inductive DataHandler where
  | nop
  | updMask
  | updReg (bank : Chip)
  | load (target : Target) (rect : Bool)
deriving DecidableEq, Repr

/-- What the Play port carries (00_scope.md R12). -/
inductive PlayCmd where
  | start | stop
deriving DecidableEq, Repr

/-- Which chips an update commits to (10_state.md R24). -/
inductive UpdSel where
  | chip0 | chip1 | both
deriving DecidableEq, Repr

/-- The direction of a DMA transfer: stash is host to device, fetch device to host (20_memory.md R64). -/
inductive DmaDir where
  | stash | fetch
deriving DecidableEq, Repr

/-- Whether the device address moves on between chunks (45_dma.md R246). -/
inductive DmaMode where
  | incr | fixed
deriving DecidableEq, Repr

/-- SH, the current stop handler (10_state.md R24). -/
inductive StopHandler where
  | nop
  | play (x : PlayCmd)
  | updCommit (sel : UpdSel)
  | flush (bank : Chip)
  | fill (rect : Bool)
  | copy (rect : Bool)
  | dma (dir : DmaDir) (mode : DmaMode) (rect : Bool)
  | run
deriving DecidableEq, Repr

/-- An output of the engine: one call of a primitive of 00_scope.md R12. RxByte is the engine's input and is not
listed (log entry 6). -/
inductive Event where
  | memRead (a : HostAddr)
  | memWrite (a : HostAddr) (v : Byte)
  | chipWrite (c : Chip) (o : Offset) (v : Byte)
  | dmaXfer (dir : DmaDir) (n : Byte) (h : HostAddr) (d : DevAddr)
  | exec (a : HostAddr)
  | play (x : PlayCmd)
deriving DecidableEq, Repr

/-- The known bytes of a space: cells with strictly rising addresses. An address that is not listed holds an unknown
byte (70_reset_and_hazards.md R301), so no listed cell equals what an unlisted address reads as. Log entry 7. -/
abbrev Memory := List Host.Cell

/-- The form every memory keeps: addresses strictly rise and stay below the size of the space. -/
abbrev Memory.wf (size : Nat) (m : Memory) : Prop :=
  m.Pairwise (fun p q => p.1 < q.1) ∧ ∀ p ∈ m, p.1 < size

/-- The transfer-length register of the DMA device (10_state.md R46; 20_memory.md R64). -/
inductive DeviceLength where
  /-- The device has forgotten the length, as it does after each transfer. -/
  | forgotten
  /-- The length of the transfer being triggered. -/
  | holds (n : Byte)
  /-- It may hold any value: after reset (R301, U12) and after an Exec (46_run.md R262; U6). -/
  | unknown
deriving DecidableEq, Repr

/-- The environment the engine depends on (10_state.md R46) and the record of what the engine did to it. -/
structure Platform where
  /-- RXQ, front first (20_memory.md R60). -/
  rxq : List Byte
  /-- Host memory, 2^16 bytes (20_memory.md R62). -/
  hostMem : Memory
  /-- The registers of sound chip 0, keyed by offset (20_memory.md R63). -/
  chip0 : Memory
  /-- The registers of sound chip 1. -/
  chip1 : Memory
  /-- The memory of the expansion device, 2^24 bytes (20_memory.md R64). -/
  devMem : Memory
  /-- The device's transfer-length register (10_state.md R46). Log entry 12. -/
  devLen : DeviceLength
  /-- The events issued so far, oldest first (00_scope.md R12). -/
  events : List Event
  /-- An Exec has handed the host processor over: everything outside the engine is unknown from then on
  (46_run.md R262; U6). Log entry 8. -/
  released : Bool
  /-- The model's own counter of free bytes taken. Log entry 10. -/
  free : Nat
  /-- The model's own counter of the times the contents outside became unknown, at a reset input or an Exec: unlisted
  bytes are those of this epoch (70_reset_and_hazards.md R301; 46_run.md R262). Log entry 7. -/
  epoch : Nat
deriving DecidableEq, Repr

/-- The whole state. -/
structure State where
  /-- FSTATE, R21. -/
  fstate : FState
  /-- CMD, R22. -/
  cmd : Septet
  /-- DH, R23. -/
  dh : DataHandler
  /-- SH, R24. -/
  sh : StopHandler
  /-- RXPEND, R25. -/
  rxpend : Bool
  /-- SHADOW[c][o], R40. -/
  shadow : Vector (Vector Byte 25) 2
  /-- UBUF[0..35], R43. -/
  ubuf : Vector Septet 36
  /-- UCNT, 6 bits, R44. -/
  ucnt : BitVec 6
  /-- UR_HAVE, R45. -/
  urHave : Bool
  /-- UR_IDX, R45. -/
  urIdx : Septet
  /-- LD_PENDING, 3 bits, R30. -/
  ldPending : BitVec 3
  /-- LD_MASK, R31. -/
  ldMask : Septet
  /-- LD_IDX, 3 bits, R32. -/
  ldIdx : BitVec 3
  /-- CUR, R33. -/
  cur : HostAddr
  /-- COL, R34. -/
  col : Byte
  /-- DCUR, R39. -/
  dcur : DevAddr
  /-- BUFADDR, R35. -/
  bufAddr : HostAddr
  /-- DMA_DEVADDR, R35. -/
  dmaDevAddr : DevAddr
  /-- DMA_COUNT, R35. -/
  dmaCount : BitVec 16
  /-- RECT_START, R36. -/
  rectStart : Byte
  /-- RECT_SIZE, R36. -/
  rectSize : Byte
  /-- RECT_INC, R36. -/
  rectInc : Byte
  /-- FILL_VALUE, R38. -/
  fillValue : Byte
  /-- FILL_COUNT, R38. -/
  fillCount : BitVec 16
  /-- COPY_FROM, R38. -/
  copyFrom : HostAddr
  /-- COPY_COUNT, R38. -/
  copyCount : BitVec 16
  /-- The environment, R46. -/
  plat : Platform
  /-- The parameters, 00_scope.md R6. -/
  cfg : Config
deriving DecidableEq, Repr

/-- The environment right after reset: nothing received, nothing known, nothing issued. Log entries 7, 10, 11. -/
def Platform.powerOn : Platform where
  rxq := []
  hostMem := []
  chip0 := []
  chip1 := []
  devMem := []
  devLen := .unknown
  events := []
  released := false
  free := 0
  epoch := 0

/-- The machine right after reset (70_reset_and_hazards.md R300). -/
def State.reset : State where
  fstate := .idle
  cmd := 0
  dh := .nop
  sh := .nop
  rxpend := false
  shadow := Vector.replicate 2 (Vector.replicate 25 0)
  ubuf := Vector.replicate 36 0
  ucnt := 0
  urHave := false
  urIdx := 0
  ldPending := 0
  ldMask := 0
  ldIdx := 0
  cur := 0
  col := 0
  dcur := 0
  bufAddr := 0
  dmaDevAddr := 0
  dmaCount := 0
  rectStart := 0
  rectSize := 0
  rectInc := 0
  fillValue := 0
  fillCount := 0
  copyFrom := 0
  copyCount := 0
  plat := Platform.powerOn
  cfg := Config.standard

/-- Why the machine stops for ever. The engine raises no exception (00_scope.md R13). -/
inductive Fault where
  /-- Raised by the DMA loop that has bytes left to move in chunks of RECT_SIZE = 0: the step never completes
  (45_dma.md R243; U5 "a model may also choose stuck"). Carries the state in which the loop hangs. Safe: nothing is
  proved of a run that reaches it. Log entry 13. -/
  | dmaStuck (s : State)
deriving DecidableEq, Repr

/-- Why a step is given no meaning. -/
inductive Refusal where
  /-- Raised by an arm of exec whose command has no meaning yet. Safe. -/
  | notModelled (mnemonic : String)
  /-- Raised by Advance(true) with RECT_SIZE = 0 (43_rect.md R205; U3). Carries the state at the unmet requirement.
  Safe: nothing is proved of a run that reaches it. Log entry 13. -/
  | rectSizeZero (s : State)
  /-- Raised by the DMA loop when fewer bytes remain than one chunk (45_dma.md R243; U4). Carries the state at the
  unmet requirement, in which the chunks issued before it stand. Safe. Log entry 13. -/
  | dmaMisaligned (s : State)
deriving DecidableEq, Repr

/-- The outcome of a step or of a handler. -/
abbrev Result := Host.Outcome State Fault Refusal

end Sys2Proof.Machine
end

