-- ==== Sys2Proof/Machine/Operands.lean ====
section
/-! DEFINITION. Operand assembly (30_encoding.md R101 to R107): the bitmask, pairs and packed payload forms as pure
functions of the bytes, the packer a sender uses, and the byte fields of the multi-byte registers (20_memory.md R69,
10_state.md R35, R38). -/

namespace Sys2Proof.Machine

/-- `v | (hi << 7)`: the byte whose bit 7 is supplied apart (R102, R104, R106). -/
def withHigh (v : Byte) (hi : Bool) : Byte := v ||| (if hi then 0x80#8 else 0#8)

/-! ### Bitmask form -/

/-- `mask[g][b]` of logical id 7g + b (R101). -/
def maskBit (u : Vector Septet 36) (id : LogicalId) : Bool :=
  (u[id.val / 7]'(by omega)).getLsbD (id.val % 7)

/-- `msb[g][b]` of logical id 7g + b (R101). -/
def msbBit (u : Vector Septet 36) (id : LogicalId) : Bool :=
  (u[4 + id.val / 7]'(by omega)).getLsbD (id.val % 7)

/-- N, the number of selected logical ids: the sum of the popcounts of the four masks (R101). -/
def selectedCount (u : Vector Septet 36) : Nat :=
  ones (u[0].setWidth 8) + ones (u[1].setWidth 8) + ones (u[2].setWidth 8) + ones (u[3].setWidth 8)

/-- Gives the values, in order, to the selected ids, in ascending id order (R102; 41_shadow_update.md R155). -/
def assignValues (u : Vector Septet 36) : List LogicalId → List Septet → List (LogicalId × Byte)
  | [], _ => []
  | id :: ids, vs =>
    if maskBit u id then
      match vs with
      | [] => []
      | v :: vs => (id, withHigh (v.setWidth 8) (msbBit u id)) :: assignValues u ids vs
    else assignValues u ids vs

/-- The operands of a bitmask payload: the selected ids in ascending order, each with its 8-bit value (R102). -/
def bitmaskPairs (u : Vector Septet 36) : List (LogicalId × Byte) :=
  assignValues u (List.finRange 28) (u.toList.drop 8)

/-! ### Pairs form -/

/-- The logical id in the first byte of a pair: bits 5..0 (R104). -/
def pairId (x : Septet) : Nat := (x.extractLsb' 0 6).toNat

/-- The value of a pair: the second byte with bit 6 of the first as bit 7 (R104). -/
def pairValue (x : Septet) (y : Byte) : Byte := withHigh y (x.getLsbD 6)

/-! ### Packed form -/

/-- The mask byte of a group: bit i is bit 7 of its byte i (R107). -/
def packMask : List Byte → Byte
  | [] => 0
  | b :: bs => (if b.msb then 1#8 else 0#8) ||| (packMask bs <<< 1)

/-- One group: its mask byte, then the low 7 bits of each byte (R107). -/
def packGroup (g : List Byte) : List Byte := packMask g :: g.map (· &&& 0x7F#8)

/-- `pack7`, the sender's packer: groups of up to 7 bytes (R107). -/
def pack7 : List Byte → List Byte
  | [] => []
  | a :: b :: c :: d :: e :: f :: g :: rest => packGroup [a, b, c, d, e, f, g] ++ pack7 rest
  | g => packGroup g

/-- The bytes a packed payload carries, from the point where `pending` bytes are owed to the mask (R106;
42_loader.md R181). -/
def unpackFrom : Nat → Septet → List Byte → List Byte
  | _, _, [] => []
  | 0, _, b :: bs => unpackFrom 7 (b.setWidth 7) bs
  | p + 1, m, b :: bs => withHigh b (m.getLsbD 0) :: unpackFrom p (m >>> 1) bs

/-- The decoded bytes of a whole packed payload (R106). -/
def unpack7 (payload : List Byte) : List Byte := unpackFrom 0 0 payload

/-! ### Byte fields of registers, little-endian (20_memory.md R69) -/

/-- Bits 7..0 of a 16-bit register replaced. -/
def setLow16 (x : BitVec 16) (v : Byte) : BitVec 16 := x.extractLsb' 8 8 ++ v

/-- Bits 15..8 of a 16-bit register replaced. -/
def setHigh16 (x : BitVec 16) (v : Byte) : BitVec 16 := v ++ x.extractLsb' 0 8

/-- Bits 7..0 of a 24-bit register replaced. -/
def setLow24 (x : BitVec 24) (v : Byte) : BitVec 24 := x.extractLsb' 8 16 ++ v

/-- Bits 15..8 of a 24-bit register replaced. -/
def setMid24 (x : BitVec 24) (v : Byte) : BitVec 24 := x.extractLsb' 16 8 ++ v ++ x.extractLsb' 0 8

/-- Bits 23..16 of a 24-bit register replaced. -/
def setHigh24 (x : BitVec 24) (v : Byte) : BitVec 24 := v ++ x.extractLsb' 0 16

/-- `(RECT_INC * (RECT_START - RECT_SIZE)) mod 2^16` (10_state.md R37). -/
def skipOf (start size inc : Byte) : BitVec 16 :=
  inc.setWidth 16 * (start.setWidth 16 - size.setWidth 16)

end Sys2Proof.Machine
end

