-- ==== Sys2Proof/Machine/Ops.lean ====
section
/-! DEFINITION. The named operations every meaning is built from: sequencing of outcomes, memory, the ports of
20_memory.md R60 to R65, the shadow store, the parameter records, the cursor (43_rect.md), the loader (42_loader.md),
and the abort by frame start with the reset of the handlers at frame stop (60_exceptions.md R275). -/

namespace Sys2Proof.Machine

/-- Goes on from a next state; a fault or a refusal stands. -/
def andThen (r : Result) (f : State → Result) : Result :=
  match r with
  | .next s => f s
  | .fault e => .fault e
  | .refused e => .refused e

/-! ### Memory -/

/-- The known byte at an address, if any. -/
def Memory.get? : Memory → Nat → Option Byte
  | [], _ => none
  | (b, w) :: m, a => if a = b then some w else Memory.get? m a

/-- Makes the byte at an address known, keeping addresses strictly rising. -/
def Memory.set : Memory → Nat → Byte → Memory
  | [], a, v => [(a, v)]
  | (b, w) :: m, a, v =>
    if a < b then (a, v) :: (b, w) :: m
    else if a = b then (a, v) :: m
    else (b, w) :: Memory.set m a v

/-! ### The platform -/

/-- Whether an address is RAM that only the engine and the DMA device write: no Exec has released the host processor
(R77; 46_run.md R262) and the address is plain RAM (R62). -/
def Platform.keeps (p : Platform) (c : Config) (a : HostAddr) : Bool := !p.released && !c.isIo a

/-- A byte of host memory as the platform returns it: the last one written, an unknown byte where none was, and any
value where the platform does not keep what is written (R62; U6, U12, U13). -/
def Platform.hostRead (p : Platform) (c : Config) (a : HostAddr) : Byte × Platform :=
  if p.keeps c a then ((Memory.get? p.hostMem a.toNat).getD (Config.powerOnHost p.epoch a), p)
  else (Config.freeByte p.free, { p with free := p.free + 1 })

/-- A byte written to host memory (R62); kept where the platform keeps it. -/
def Platform.hostWrite (p : Platform) (c : Config) (a : HostAddr) (v : Byte) : Platform :=
  if p.keeps c a then { p with hostMem := Memory.set p.hostMem a.toNat v } else p

/-- A byte of device memory, read by the DMA device (R64; U6, U12). -/
def Platform.devRead (p : Platform) (d : DevAddr) : Byte × Platform :=
  if p.released then (Config.freeByte p.free, { p with free := p.free + 1 })
  else ((Memory.get? p.devMem d.toNat).getD (Config.powerOnDevice p.epoch d), p)

/-- A byte of device memory, written by the DMA device (R64). -/
def Platform.devWrite (p : Platform) (d : DevAddr) (v : Byte) : Platform :=
  if p.released then p else { p with devMem := Memory.set p.devMem d.toNat v }

/-- Whether a sound chip keeps what is written to it: it is connected (U17), and no Exec has released the host
processor (46_run.md R262; U6). -/
def Platform.keepsChip (p : Platform) (c : Config) (chip : Chip) : Bool :=
  !p.released && (chip == 0 || c.chip1Connected)

/-- The listed registers of a sound chip. -/
def Platform.chip (p : Platform) (chip : Chip) : Memory := if chip = 0 then p.chip0 else p.chip1

/-- A register of a sound chip is written (R63); kept where the chip keeps it. -/
def Platform.chipSet (p : Platform) (c : Config) (chip : Chip) (o : Offset) (v : Byte) : Platform :=
  if p.keepsChip c chip then
    if chip = 0 then { p with chip0 := Memory.set p.chip0 o.val v }
    else { p with chip1 := Memory.set p.chip1 o.val v }
  else p

/-- What a register of a sound chip holds: the last byte written, the unknown byte of the epoch where none was, and
none where it may hold any value at any time, after an Exec (U6) and on an unconnected chip (U17). No rule of the
engine reads it (R63). Log entry 8. -/
def Platform.chipReg (p : Platform) (c : Config) (chip : Chip) (o : Offset) : Option Byte :=
  if p.keepsChip c chip then some ((Memory.get? (p.chip chip) o.val).getD (Config.powerOnChip p.epoch chip o))
  else none

/-- One byte move of a DMA transfer (R64). -/
def Platform.moveByte (dir : DmaDir) (c : Config) (h : HostAddr) (d : DevAddr) (p : Platform) : Platform :=
  match dir with
  | .stash => let r := p.hostRead c h; r.2.devWrite d r.1
  | .fetch => let r := p.devRead d; r.2.hostWrite c h r.1

/-- The n byte moves of a DMA transfer in ascending order, both addresses wrapping (R64, R72). -/
def Platform.moveBytes (dir : DmaDir) (c : Config) : Nat → HostAddr → DevAddr → Platform → Platform
  | 0, _, _, p => p
  | n + 1, h, d, p => Platform.moveBytes dir c n (h + 1) (d + 1) (p.moveByte dir c h d)

/-- The device's length register after a transfer: forgotten (R64), and any value once the host processor is released
(46_run.md R262; U6). -/
def Platform.lengthAfter (p : Platform) : DeviceLength := if p.released then .unknown else .forgotten

/-- The device performs a triggered transfer of the length in its register, and forgets the length (R64). -/
def Platform.transfer (dir : DmaDir) (c : Config) (h : HostAddr) (d : DevAddr) (p : Platform) : Platform :=
  match p.devLen with
  | .forgotten | .unknown => p
  | .holds n => { p.moveBytes dir c n.toNat h d with devLen := p.lengthAfter }

/-- The memories, the chips and the device's register become unknown: a new epoch, in which nothing is listed
(70_reset_and_hazards.md R301; 46_run.md R262; U6, U12). Log entries 7 and 8. -/
def Platform.forget (p : Platform) : Platform :=
  { p with hostMem := [], chip0 := [], chip1 := [], devMem := [], devLen := .unknown, epoch := p.epoch + 1 }

/-- The host processor is released: everything outside the engine is unknown, now and from now on (46_run.md R262; U6).
Log entry 8. -/
def Platform.release (p : Platform) : Platform := { p.forget with released := true }

/-! ### The primitives of 00_scope.md R12 -/

/-- Appends an event to the engine's output. -/
def emit (e : Event) (s : State) : State :=
  { s with plat := { s.plat with events := s.plat.events ++ [e] } }

/-- `MemRead(a, 1)` (20_memory.md R62). -/
def memRead (a : HostAddr) (s : State) : Byte × State :=
  let s := emit (.memRead a) s
  let r := s.plat.hostRead s.cfg a
  (r.1, { s with plat := r.2 })

/-- `MemWrite(a, 1, v)` (20_memory.md R62). -/
def memWrite (a : HostAddr) (v : Byte) (s : State) : State :=
  let s := emit (.memWrite a v) s
  { s with plat := s.plat.hostWrite s.cfg a v }

/-- `ChipWrite(c, o, v)` (20_memory.md R63). -/
def chipWrite (c : Chip) (o : Offset) (v : Byte) (s : State) : State :=
  let s := emit (.chipWrite c o v) s
  { s with plat := s.plat.chipSet s.cfg c o v }

/-- `DmaXfer(dir, n, h, d)`: the length is passed with every trigger, the device moves the bytes before the call
returns (20_memory.md R64). -/
def dmaXfer (dir : DmaDir) (n : Byte) (h : HostAddr) (d : DevAddr) (s : State) : State :=
  let s := emit (.dmaXfer dir n h d) s
  { s with plat := Platform.transfer dir s.cfg h d { s.plat with devLen := .holds n } }

/-- `Exec(a)`: control of the host processor is handed over (20_memory.md R65; 46_run.md R260, R262). -/
def execHost (a : HostAddr) (s : State) : State :=
  let s := emit (.exec a) s
  { s with plat := s.plat.release }

/-- `Play(x)` (20_memory.md R65). -/
def play (x : PlayCmd) (s : State) : State := emit (.play x) s

/-- `RxByte()`: the front of RXQ is taken (20_memory.md R60). -/
def rxByte (s : State) : Option (Byte × State) :=
  match s.plat.rxq with
  | [] => none
  | b :: bs => some (b, { s with plat := { s.plat with rxq := bs } })

/-- The transport appends bytes to RXQ (20_memory.md R60); no step of the engine does this. -/
def deliver (bs : List Byte) (s : State) : State :=
  { s with plat := { s.plat with rxq := s.plat.rxq ++ bs } }

/-- The reset input: the engine's registers take their reset values, no event is issued, RXQ is not emptied, and the
contents of the memories and the chips are unknown afterwards (70_reset_and_hazards.md R300, R301). Log entry 18. -/
def resetInput (s : State) : State := { State.reset with plat := s.plat.forget, cfg := s.cfg }

/-! ### The handlers and the framer's two ends -/

/-- Sets DH and SH (40_framer_dispatch.md R128). -/
def install (dh : DataHandler) (sh : StopHandler) (s : State) : State := { s with dh := dh, sh := sh }

/-- Frame start, which aborts whatever was active: handlers to NOP, FSTATE to AWAIT_MANUF, nothing saved and nothing
else touched (40_framer_dispatch.md R121; 60_exceptions.md R275). -/
def frameStart (s : State) : State := { install .nop .nop s with fstate := .awaitManuf }

/-- The end of frame stop, after the stop handler: handlers to NOP, FSTATE to IDLE (40_framer_dispatch.md R122). -/
def endFrame (s : State) : State := { install .nop .nop s with fstate := .idle }

/-! ### The shadow store (10_state.md R40) -/

/-- `SHADOW[c][o]`. -/
def shadowAt (s : State) (c : Chip) (o : Offset) : Byte := s.shadow[c][o]

/-- `SHADOW[c][o] <- v`. -/
def setShadow (c : Chip) (o : Offset) (v : Byte) (s : State) : State :=
  { s with shadow := s.shadow.set c (s.shadow[c].set o v) }

/-! ### The parameter records (10_state.md R35, R36, R38) -/

/-- The length of a record in bytes (42_loader.md R183). -/
def Record.length : Record → Nat
  | .addr => 7
  | .rect => 3
  | .fill => 3
  | .copy => 4

/-- Byte i of the ADDR record replaced (R35). -/
def setAddrByte (i : Nat) (v : Byte) (s : State) : State :=
  match i with
  | 0 => { s with bufAddr := setLow16 s.bufAddr v }
  | 1 => { s with bufAddr := setHigh16 s.bufAddr v }
  | 2 => { s with dmaDevAddr := setLow24 s.dmaDevAddr v }
  | 3 => { s with dmaDevAddr := setMid24 s.dmaDevAddr v }
  | 4 => { s with dmaDevAddr := setHigh24 s.dmaDevAddr v }
  | 5 => { s with dmaCount := setLow16 s.dmaCount v }
  | 6 => { s with dmaCount := setHigh16 s.dmaCount v }
  | _ => s

/-- Byte i of the RECT record replaced (R36). -/
def setRectByte (i : Nat) (v : Byte) (s : State) : State :=
  match i with
  | 0 => { s with rectStart := v }
  | 1 => { s with rectSize := v }
  | 2 => { s with rectInc := v }
  | _ => s

/-- Byte i of the FILL record replaced (R38). -/
def setFillByte (i : Nat) (v : Byte) (s : State) : State :=
  match i with
  | 0 => { s with fillValue := v }
  | 1 => { s with fillCount := setLow16 s.fillCount v }
  | 2 => { s with fillCount := setHigh16 s.fillCount v }
  | _ => s

/-- Byte i of the COPY record replaced (R38). -/
def setCopyByte (i : Nat) (v : Byte) (s : State) : State :=
  match i with
  | 0 => { s with copyFrom := setLow16 s.copyFrom v }
  | 1 => { s with copyFrom := setHigh16 s.copyFrom v }
  | 2 => { s with copyCount := setLow16 s.copyCount v }
  | 3 => { s with copyCount := setHigh16 s.copyCount v }
  | _ => s

/-- `r[i] <- v` (42_loader.md R183). -/
def setRecordByte (r : Record) (i : Nat) (v : Byte) (s : State) : State :=
  match r with
  | .addr => setAddrByte i v s
  | .rect => setRectByte i v s
  | .fill => setFillByte i v s
  | .copy => setCopyByte i v s

/-- The bytes of a record, index 0 first, in the layout of R35, R36, R38. -/
def recordBytes (s : State) : Record → List Byte
  | .addr => [s.bufAddr.extractLsb' 0 8, s.bufAddr.extractLsb' 8 8, s.dmaDevAddr.extractLsb' 0 8,
      s.dmaDevAddr.extractLsb' 8 8, s.dmaDevAddr.extractLsb' 16 8, s.dmaCount.extractLsb' 0 8,
      s.dmaCount.extractLsb' 8 8]
  | .rect => [s.rectStart, s.rectSize, s.rectInc]
  | .fill => [s.fillValue, s.fillCount.extractLsb' 0 8, s.fillCount.extractLsb' 8 8]
  | .copy => [s.copyFrom.extractLsb' 0 8, s.copyFrom.extractLsb' 8 8, s.copyCount.extractLsb' 0 8,
      s.copyCount.extractLsb' 8 8]

/-- RECT_SKIP, a view of the three RECT registers (10_state.md R37). -/
def rectSkip (s : State) : BitVec 16 := skipOf s.rectStart s.rectSize s.rectInc

/-! ### The cursor (43_rect.md) -/

/-- `CursorInit()` (R203). -/
def cursorInit (s : State) : State := { s with cur := s.bufAddr, col := s.rectSize }

/-- The column step of `Advance(true)` when RECT_SIZE is not 0 (R204). -/
def columnStep (s : State) : State :=
  if s.col - 1 = 0 then { s with cur := s.cur + rectSkip s, col := s.rectSize }
  else { s with col := s.col - 1 }

/-- `Advance(rect)` (R204, R205). -/
def advance (rect : Bool) (s : State) : Result :=
  let s := { s with cur := s.cur + 1 }
  if rect then
    if s.rectSize = 0 then .refused (.rectSizeZero s) else .next (columnStep s)
  else .next s

/-! ### The loader (42_loader.md) -/

/-- `LoaderReset()` (R180). -/
def loaderReset (s : State) : State := { s with ldPending := 0, ldIdx := 0 }

/-- `StoreMem(v, rect)` (R182). -/
def storeMem (v : Byte) (rect : Bool) (s : State) : Result := advance rect (memWrite s.cur v s)

/-- `StoreRec(r, v)` (R183): a byte beyond the record is dropped. -/
def storeRec (r : Record) (v : Byte) (s : State) : State :=
  if s.ldIdx.toNat < r.length then
    { setRecordByte r s.ldIdx.toNat v s with ldIdx := s.ldIdx + 1 }
  else s

/-- What the loader does with a decoded byte (R181). -/
def storeDecoded (t : Target) (rect : Bool) (v : Byte) (s : State) : Result :=
  match t with
  | .mem => storeMem v rect s
  | .record r => .next (storeRec r v s)

/-- The data handler `LOAD(target, rect)` (R181). -/
def loadByte (t : Target) (rect : Bool) (b : Byte) (s : State) : Result :=
  if s.ldPending = 0 then .next { s with ldMask := b.setWidth 7, ldPending := 7 }
  else
    storeDecoded t rect (withHigh b (s.ldMask.getLsbD 0))
      { s with ldMask := s.ldMask >>> 1, ldPending := s.ldPending - 1 }

end Sys2Proof.Machine
end

