-- ==== Sys2Proof/Machine/Dma.lean ====
section
/-! DEFINITION. The chunked DMA sequencer and its six commands (45_dma.md). -/

namespace Sys2Proof.Machine

/-- One chunk of the DMA loop, its requirements met (R240). -/
def dmaChunk (dir : DmaDir) (mode : DmaMode) (rect : Bool) (s : State) : State :=
  let s := dmaXfer dir s.rectSize s.cur s.dcur s
  let n := s.rectSize
  let s := { s with dmaCount := s.dmaCount - n.setWidth 16, cur := s.cur + n.setWidth 16 }
  let s := if rect then { s with cur := s.cur + rectSkip s } else s
  match mode with
  | .incr => { s with dcur := s.dcur + n.setWidth 24 }
  | .fixed => s

/-- The DMA loop (R240, R243) with fuel: every chunk takes at least one from DMA_COUNT, so DMA_COUNT iterations are
enough. -/
def dmaLoop (dir : DmaDir) (mode : DmaMode) (rect : Bool) : Nat → State → Result
  | 0, s => .next s
  | n + 1, s =>
    if s.dmaCount = 0 then .next s
    else if s.rectSize = 0 then .fault (.dmaStuck s)
    else if s.dmaCount.toNat < s.rectSize.toNat then .refused (.dmaMisaligned s)
    else dmaLoop dir mode rect n (dmaChunk dir mode rect s)

/-- The stop handler `DMA(dir, dmode, rect)` (R240). -/
def dmaRun (dir : DmaDir) (mode : DmaMode) (rect : Bool) (s : State) : Result :=
  dmaLoop dir mode rect s.dmaCount.toNat { cursorInit s with dcur := s.dmaDevAddr }

/-- DMA_STASH (R235). -/
def execDmaStash (p : FramePart) (s : State) : Result :=
  match p with
  | .command => .next (install .nop (.dma .stash .incr false) s)
  | .data _ => .next s
  | .stop => dmaRun .stash .incr false s

/-- DMA_FETCH (R236). -/
def execDmaFetch (p : FramePart) (s : State) : Result :=
  match p with
  | .command => .next (install .nop (.dma .fetch .incr false) s)
  | .data _ => .next s
  | .stop => dmaRun .fetch .incr false s

/-- DMA_FILL (R237). -/
def execDmaFill (p : FramePart) (s : State) : Result :=
  match p with
  | .command => .next (install .nop (.dma .fetch .fixed false) s)
  | .data _ => .next s
  | .stop => dmaRun .fetch .fixed false s

/-- DMA_STASH_RECT (R238). -/
def execDmaStashRect (p : FramePart) (s : State) : Result :=
  match p with
  | .command => .next (install .nop (.dma .stash .incr true) s)
  | .data _ => .next s
  | .stop => dmaRun .stash .incr true s

/-- DMA_FETCH_RECT (R239). -/
def execDmaFetchRect (p : FramePart) (s : State) : Result :=
  match p with
  | .command => .next (install .nop (.dma .fetch .incr true) s)
  | .data _ => .next s
  | .stop => dmaRun .fetch .incr true s

/-- DMA_FILL_RECT (R241). -/
def execDmaFillRect (p : FramePart) (s : State) : Result :=
  match p with
  | .command => .next (install .nop (.dma .fetch .fixed true) s)
  | .data _ => .next s
  | .stop => dmaRun .fetch .fixed true s

end Sys2Proof.Machine
end

