-- ==== Sys2Proof/Machine/Loader.lean ====
section
/-! DEFINITION. The loader's commands: ADDR and LOAD (42_loader.md R186, R187), ADDR_RECT and LOAD_RECT (43_rect.md
R206, R207). None has a stop action (R184). -/

namespace Sys2Proof.Machine

/-- The start handler of a record load (40_framer_dispatch.md R128). -/
def recordStart (r : Record) (sh : StopHandler) (s : State) : State :=
  install (.load (.record r) false) sh (loaderReset s)

/-- The start handler of a memory load (40_framer_dispatch.md R128). -/
def loadStart (rect : Bool) (s : State) : State :=
  install (.load .mem rect) .nop (cursorInit (loaderReset s))

/-- ADDR (R186). -/
def execAddr (p : FramePart) (s : State) : Result :=
  match p with
  | .command => .next (recordStart .addr .nop s)
  | .data b => loadByte (.record .addr) false b s
  | .stop => .next s

/-- ADDR_RECT (R206). -/
def execAddrRect (p : FramePart) (s : State) : Result :=
  match p with
  | .command => .next (recordStart .rect .nop s)
  | .data b => loadByte (.record .rect) false b s
  | .stop => .next s

/-- LOAD (R187). -/
def execLoad (p : FramePart) (s : State) : Result :=
  match p with
  | .command => .next (loadStart false s)
  | .data b => loadByte .mem false b s
  | .stop => .next s

/-- LOAD_RECT (R207). -/
def execLoadRect (p : FramePart) (s : State) : Result :=
  match p with
  | .command => .next (loadStart true s)
  | .data b => loadByte .mem true b s
  | .stop => .next s

end Sys2Proof.Machine
end

