-- ==== Sys2Proof/Machine/FillCopy.lean ====
section
/-! DEFINITION. The fill and copy engine (44_fill_copy.md): FILL, FILL_RECT, COPY, COPY_RECT. -/

namespace Sys2Proof.Machine

/-- One iteration of the fill loop (R216). -/
def fillOnce (rect : Bool) (s : State) : Result :=
  andThen (advance rect (memWrite s.cur s.fillValue s)) fun s => .next { s with fillCount := s.fillCount - 1 }

/-- n iterations of the fill loop. -/
def fillLoop (rect : Bool) : Nat → State → Result
  | 0, s => .next s
  | n + 1, s => andThen (fillOnce rect s) (fillLoop rect n)

/-- The stop handler `FILL(rect)` (R216): FILL_COUNT iterations. -/
def fillRun (rect : Bool) (s : State) : Result := fillLoop rect s.fillCount.toNat (cursorInit s)

/-- One iteration of the copy loop (R220): read, write, advance the source, advance the cursor, count down. -/
def copyOnce (rect : Bool) (s : State) : Result :=
  let r := memRead s.copyFrom s
  let s := memWrite r.2.cur r.1 r.2
  andThen (advance rect { s with copyFrom := s.copyFrom + 1 }) fun s =>
    .next { s with copyCount := s.copyCount - 1 }

/-- n iterations of the copy loop. -/
def copyLoop (rect : Bool) : Nat → State → Result
  | 0, s => .next s
  | n + 1, s => andThen (copyOnce rect s) (copyLoop rect n)

/-- The stop handler `COPY(rect)` (R220): COPY_COUNT iterations. -/
def copyRun (rect : Bool) (s : State) : Result := copyLoop rect s.copyCount.toNat (cursorInit s)

/-- FILL (R215). -/
def execFill (p : FramePart) (s : State) : Result :=
  match p with
  | .command => .next (recordStart .fill (.fill false) s)
  | .data b => loadByte (.record .fill) false b s
  | .stop => fillRun false s

/-- FILL_RECT (R217). -/
def execFillRect (p : FramePart) (s : State) : Result :=
  match p with
  | .command => .next (recordStart .fill (.fill true) s)
  | .data b => loadByte (.record .fill) false b s
  | .stop => fillRun true s

/-- COPY (R219). -/
def execCopy (p : FramePart) (s : State) : Result :=
  match p with
  | .command => .next (recordStart .copy (.copy false) s)
  | .data b => loadByte (.record .copy) false b s
  | .stop => copyRun false s

/-- COPY_RECT (R221). -/
def execCopyRect (p : FramePart) (s : State) : Result :=
  match p with
  | .command => .next (recordStart .copy (.copy true) s)
  | .data b => loadByte (.record .copy) false b s
  | .stop => copyRun true s

end Sys2Proof.Machine
end

