-- ==== Sys2Proof/Machine/Playback.lean ====
section
/-! DEFINITION. START and STOP (40_framer_dispatch.md R136, R137). -/

namespace Sys2Proof.Machine

/-- START (R136): data bytes are ignored (R130), frame stop issues Play(START). -/
def execStart (p : FramePart) (s : State) : Result :=
  match p with
  | .command => .next (install .nop (.play .start) s)
  | .data _ => .next s
  | .stop => .next (play .start s)

/-- STOP (R137): data bytes are ignored (R130), frame stop issues Play(STOP). -/
def execStop (p : FramePart) (s : State) : Result :=
  match p with
  | .command => .next (install .nop (.play .stop) s)
  | .data _ => .next s
  | .stop => .next (play .stop s)

end Sys2Proof.Machine
end

