-- ==== Sys2Proof/Machine/Run.lean ====
section
/-! DEFINITION. RUN, indirect buffer execution (46_run.md). -/

namespace Sys2Proof.Machine

/-- The stop handler `RUN` (R260, R261). -/
def runBuffer (s : State) : State := if s.cfg.execEnable then execHost s.bufAddr s else s

/-- RUN (R260). -/
def execRun (p : FramePart) (s : State) : Result :=
  match p with
  | .command => .next (install .nop .run s)
  | .data _ => .next s
  | .stop => .next (runBuffer s)

end Sys2Proof.Machine
end

