-- ==== Sys2Proof/Machine/Update.lean ====
section
/-! DEFINITION. The shadow store commands (41_shadow_update.md): UPDATE, UPDATE2, UPDATE_BOTH, UPDATE_REG,
UPDATE_REG2, and the decode and flush they share. -/

namespace Sys2Proof.Machine

/-- Writes decoded (id, value) operands to a shadow bank in order, each through REGMAP (R155, R156). -/
def applyPairs (bank : Chip) (ps : List (LogicalId × Byte)) (s : State) : State :=
  ps.foldl (fun s p => setShadow bank s.cfg.regmap[p.1] p.2 s) s

/-- `Decode(bank)` (R155). -/
def decodeUpdate (bank : Chip) (s : State) : State := applyPairs bank (bitmaskPairs s.ubuf) s

/-- `Flush(bank, chip)` (R157): all 25 offsets in ascending order. -/
def flush (bank chip : Chip) (s : State) : State :=
  (List.finRange 25).foldl (fun t o => chipWrite chip o (shadowAt s bank o) t) s

/-- The start handler of the bitmask form (R150 to R152). -/
def updStart (sel : UpdSel) (s : State) : State := install .updMask (.updCommit sel) { s with ucnt := 0 }

/-- The data handler `UPD_MASK` (R153). -/
def updCollect (b : Byte) (s : State) : State :=
  if h : s.ucnt.toNat < 36 then
    { s with ubuf := s.ubuf.set s.ucnt.toNat (b.setWidth 7) h, ucnt := s.ucnt + 1 }
  else { s with ucnt := 37 }

/-- Whether the collected payload has the length its masks demand (R154). -/
def updLengthOk (s : State) : Bool :=
  decide (8 ≤ s.ucnt.toNat) && decide (s.ucnt.toNat ≤ 36) && s.ucnt.toNat == 8 + selectedCount s.ubuf

/-- The shadow bank a selection decodes into (R154). -/
def UpdSel.bank : UpdSel → Chip
  | .chip0 => 0
  | .chip1 => 1
  | .both => 0

/-- The flushes of a selection (R154). -/
def updFlush (sel : UpdSel) (s : State) : State :=
  match sel with
  | .chip0 => flush 0 0 s
  | .chip1 => flush 1 1 s
  | .both => flush 0 1 (flush 0 0 s)

/-- The stop handler `UPD_COMMIT(sel)` (R154): a payload of the wrong length is dropped whole. -/
def updCommit (sel : UpdSel) (s : State) : State :=
  if updLengthOk s then updFlush sel (decodeUpdate sel.bank s) else s

/-- The start handler of the single-register form (R160). -/
def regStart (bank : Chip) (s : State) : State := install (.updReg bank) (.flush bank) { s with urHave := false }

/-- `SHADOW[c][REGMAP[id]] <- v` for an id below 28; other ids select nothing (R161). -/
def applyPair (bank : Chip) (x : Septet) (y : Byte) (s : State) : State :=
  if h : pairId x < 28 then setShadow bank (s.cfg.regmap[pairId x]'h) (pairValue x y) s else s

/-- The data handler `UPD_REG(c)` (R161). -/
def regByte (bank : Chip) (b : Byte) (s : State) : State :=
  if s.urHave then { applyPair bank s.urIdx b s with urHave := false }
  else { s with urIdx := b.setWidth 7, urHave := true }

/-- UPDATE (R150). -/
def execUpdate (p : FramePart) (s : State) : Result :=
  match p with
  | .command => .next (updStart .chip0 s)
  | .data b => .next (updCollect b s)
  | .stop => .next (updCommit .chip0 s)

/-- UPDATE2 (R151). -/
def execUpdate2 (p : FramePart) (s : State) : Result :=
  match p with
  | .command => .next (updStart .chip1 s)
  | .data b => .next (updCollect b s)
  | .stop => .next (updCommit .chip1 s)

/-- UPDATE_BOTH (R152). -/
def execUpdateBoth (p : FramePart) (s : State) : Result :=
  match p with
  | .command => .next (updStart .both s)
  | .data b => .next (updCollect b s)
  | .stop => .next (updCommit .both s)

/-- UPDATE_REG (R159). -/
def execUpdateReg (p : FramePart) (s : State) : Result :=
  match p with
  | .command => .next (regStart 0 s)
  | .data b => .next (regByte 0 b s)
  | .stop => .next (flush 0 0 s)

/-- UPDATE_REG2 (R162). -/
def execUpdateReg2 (p : FramePart) (s : State) : Result :=
  match p with
  | .command => .next (regStart 1 s)
  | .data b => .next (regByte 1 b s)
  | .stop => .next (flush 1 1 s)

end Sys2Proof.Machine
end

