-- ==== Sys2Proof/Machine/Dispatch.lean ====
section
/-! DEFINITION. The one dispatch from an instruction to its meaning. A meaning is the command's start handler, data
handler or stop handler, by the part of the frame (40_framer_dispatch.md R128, R132, R133). -/

namespace Sys2Proof.Machine

def exec (i : Instr) (s : State) : Host.Outcome State Fault Refusal :=
  match i with
  | .start p => Sys2Proof.Machine.execStart p s
  | .stop p => Sys2Proof.Machine.execStop p s
  | .update p => Sys2Proof.Machine.execUpdate p s
  | .update2 p => Sys2Proof.Machine.execUpdate2 p s
  | .updateBoth p => Sys2Proof.Machine.execUpdateBoth p s
  | .run p => Sys2Proof.Machine.execRun p s
  | .load p => Sys2Proof.Machine.execLoad p s
  | .addr p => Sys2Proof.Machine.execAddr p s
  | .loadRect p => Sys2Proof.Machine.execLoadRect p s
  | .addrRect p => Sys2Proof.Machine.execAddrRect p s
  | .fill p => Sys2Proof.Machine.execFill p s
  | .fillRect p => Sys2Proof.Machine.execFillRect p s
  | .copy p => Sys2Proof.Machine.execCopy p s
  | .copyRect p => Sys2Proof.Machine.execCopyRect p s
  | .dmaStash p => Sys2Proof.Machine.execDmaStash p s
  | .dmaFetch p => Sys2Proof.Machine.execDmaFetch p s
  | .dmaFill p => Sys2Proof.Machine.execDmaFill p s
  | .dmaStashRect p => Sys2Proof.Machine.execDmaStashRect p s
  | .dmaFetchRect p => Sys2Proof.Machine.execDmaFetchRect p s
  | .dmaFillRect p => Sys2Proof.Machine.execDmaFillRect p s
  | .updateReg p => Sys2Proof.Machine.execUpdateReg p s
  | .updateReg2 p => Sys2Proof.Machine.execUpdateReg2 p s

end Sys2Proof.Machine
end

