-- ==== Sys2Proof/Machine/Flags.lean ====
section
/-! DEFINITION. The engine has no condition codes; its one flag is RXPEND (10_state.md R25). Beside it stand the named
conditions of 60_exceptions.md R270, which are labels: they change no state and are reported nowhere (00_scope.md R13,
60_exceptions.md R271), so they are a function of the received byte and the state before it. Log entries 5 and 14. -/

namespace Sys2Proof.Machine

/-- The transport's notification sets RXPEND (20_memory.md R61); no step of the engine does this. -/
def notify (s : State) : State := { s with rxpend := true }

/-- The engine looks at RXPEND and clears it (20_memory.md R61). -/
def look (s : State) : State := { s with rxpend := false }

/-- The conditions of R270. -/
inductive Cond where
  | eManuf
  | eStrayStop
  | eUnknownCmd
  | eLen
  | eDmaMisalign
  | eDmaSize0
  | eRectSize0
  | eAbort
  | eRegRange
  | eRecOverrun
  | ePairDangling
deriving DecidableEq, Repr

/-- Whether a single-register frame has an index byte that waits for its value (R163). -/
def dangling (s : State) : Bool :=
  s.urHave &&
  match s.dh with
  | .updReg _ => true
  | .nop | .updMask | .load _ _ => false

/-- The condition of an operation that stores n bytes with the rect flag (43_rect.md R205). -/
def rectCond (rect : Bool) (n : BitVec 16) (s : State) : List Cond :=
  if rect ∧ n ≠ 0 ∧ s.rectSize = 0 then [.eRectSize0] else []

/-- The condition of a DMA operation (45_dma.md R243). -/
def dmaCond (s : State) : List Cond :=
  if s.dmaCount = 0 then []
  else if s.rectSize = 0 then [.eDmaSize0]
  else if s.dmaCount.toNat % s.rectSize.toNat = 0 then []
  else [.eDmaMisalign]

/-- The conditions the stop handler raises at frame stop. -/
def stopConds (s : State) : List Cond :=
  match s.sh with
  | .updCommit _ => if updLengthOk s then [] else [.eLen]
  | .flush _ => if dangling s then [.ePairDangling] else []
  | .fill rect => rectCond rect s.fillCount s
  | .copy rect => rectCond rect s.copyCount s
  | .dma _ _ _ => dmaCond s
  | .nop | .play _ | .run => []

/-- The conditions the data handler raises at a data byte. -/
def dataConds (s : State) : List Cond :=
  match s.dh with
  | .updReg _ => if s.urHave ∧ 28 ≤ pairId s.urIdx then [.eRegRange] else []
  | .load (.record r) _ => if s.ldPending ≠ 0 ∧ r.length ≤ s.ldIdx.toNat then [.eRecOverrun] else []
  | .load .mem rect => if rect ∧ s.ldPending ≠ 0 ∧ s.rectSize = 0 then [.eRectSize0] else []
  | .nop | .updMask => []

/-- The conditions the step of byte b raises in state s (R270). -/
def conditions (b : Byte) (s : State) : List Cond :=
  match classify b with
  | .frameStart =>
    (if s.fstate = .data then [.eAbort] else []) ++
    (if s.fstate = .data ∧ dangling s then [.ePairDangling] else [])
  | .frameStop =>
    match s.fstate with
    | .idle => [.eStrayStop]
    | .awaitManuf | .dispatch => []
    | .data => stopConds s
  | .realTime => []
  | .data =>
    match s.fstate with
    | .idle => []
    | .awaitManuf => if b = s.cfg.manufId.setWidth 8 then [] else [.eManuf]
    | .dispatch => if (kindOf s.cfg (b.setWidth 7)).isNone then [.eUnknownCmd] else []
    | .data => dataConds s

end Sys2Proof.Machine
end

