-- ==== Sys2Proof/Machine/Framer.lean ====
section
/-! DEFINITION. The SysEx framer (40_framer_dispatch.md): what the engine does with one received byte, and how a byte
is taken from the queue. -/

namespace Sys2Proof.Machine

/-- `DataHandler(b)`, by DH (R132). -/
def runData (dh : DataHandler) (b : Byte) (s : State) : Result :=
  match dh with
  | .nop => .next s
  | .updMask => .next (updCollect b s)
  | .updReg bank => .next (regByte bank b s)
  | .load t rect => loadByte t rect b s

/-- `StopHandler(h)`, by h (R133). -/
def runStop (sh : StopHandler) (s : State) : Result :=
  match sh with
  | .nop => .next s
  | .play x => .next (play x s)
  | .updCommit sel => .next (updCommit sel s)
  | .flush bank => .next (flush bank bank s)
  | .fill rect => fillRun rect s
  | .copy rect => copyRun rect s
  | .dma dir mode rect => dmaRun dir mode rect s
  | .run => .next (runBuffer s)

/-- The DH and SH columns of the dispatch tables (R128, R129): what the start handler of a kind installs. -/
def startRow : Kind → DataHandler × StopHandler
  | .start => (.nop, .play .start)
  | .stop => (.nop, .play .stop)
  | .update => (.updMask, .updCommit .chip0)
  | .update2 => (.updMask, .updCommit .chip1)
  | .updateBoth => (.updMask, .updCommit .both)
  | .updateReg => (.updReg 0, .flush 0)
  | .updateReg2 => (.updReg 1, .flush 1)
  | .run => (.nop, .run)
  | .load => (.load .mem false, .nop)
  | .loadRect => (.load .mem true, .nop)
  | .addr => (.load (.record .addr) false, .nop)
  | .addrRect => (.load (.record .rect) false, .nop)
  | .fill => (.load (.record .fill) false, .fill false)
  | .fillRect => (.load (.record .fill) false, .fill true)
  | .copy => (.load (.record .copy) false, .copy false)
  | .copyRect => (.load (.record .copy) false, .copy true)
  | .dmaStash => (.nop, .dma .stash .incr false)
  | .dmaFetch => (.nop, .dma .fetch .incr false)
  | .dmaFill => (.nop, .dma .fetch .fixed false)
  | .dmaStashRect => (.nop, .dma .stash .incr true)
  | .dmaFetchRect => (.nop, .dma .fetch .incr true)
  | .dmaFillRect => (.nop, .dma .fetch .fixed true)

/-- The handlers a command byte installs: those of its kind, no-ops for an unknown command (R128, R131). -/
def handlersOf (c : Config) (code : Septet) : DataHandler × StopHandler :=
  match kindOf c code with
  | some k => startRow k
  | none => (.nop, .nop)

/-- `FrameStop()` (R122). -/
def frameStop (s : State) : Result := andThen (runStop s.sh s) fun s => .next (endFrame s)

/-- The start handler of a command byte: exec of the decoded command, or no-op handlers for an unknown one (R128,
R131). -/
def startHandler (b : Byte) (s : State) : Result :=
  match decodeCommand s.cfg b with
  | .ok i => exec i s
  | .error _ => .next (install .nop .nop s)

/-- Dispatch (R126). -/
def dispatchByte (b : Byte) (s : State) : Result :=
  andThen (startHandler b { s with cmd := b.setWidth 7 }) fun s => .next { s with fstate := .data }

/-- A data byte, by FSTATE (R120, R124 to R127, R132). -/
def dataByte (b : Byte) (s : State) : Result :=
  match s.fstate with
  | .idle => .next s
  | .awaitManuf =>
    .next { s with fstate := if b = s.cfg.manufId.setWidth 8 then .dispatch else .idle }
  | .dispatch => dispatchByte b s
  | .data => runData s.dh b s

/-- `Step(b)`: the byte class first, then FSTATE (R120). -/
def stepByte (b : Byte) (s : State) : Result :=
  match classify b with
  | .frameStart => .next (frameStart s)
  | .frameStop => frameStop s
  | .realTime => .next s
  | .data => dataByte b s

/-- One step of the engine: it looks at RXPEND, then takes the front byte of RXQ and does everything that byte causes;
with RXQ empty it waits (20_memory.md R61; 60_exceptions.md R282). Log entries 4 and 5. -/
def engineStep (s : State) : Result :=
  match rxByte (look s) with
  | none => .next (look s)
  | some (b, s) => stepByte b s

/-- The steps of a sequence of received bytes, one after another. -/
def feed : List Byte → State → Result
  | [], s => .next s
  | b :: bs, s => andThen (stepByte b s) (feed bs)

/-- An engine in DISPATCH with the bytes of a table word at the front of RXQ. Log entry 17. -/
def placeCommand (nbits w : Nat) (s : State) : State :=
  { install .nop .nop s with
    fstate := .dispatch
    plat := { s.plat with rxq := tableBytes nbits w ++ s.plat.rxq } }

end Sys2Proof.Machine
end

