-- ==== Sys2Proof/Machine/Step.lean ====
section
/-! DEFINITION. The step function, one received byte a step (00_scope.md R2). -/

namespace Sys2Proof.Machine

/-- One step of the machine (20_memory.md R61; 40_framer_dispatch.md R120). -/
def step (s : State) : Host.Outcome State Fault Refusal := engineStep s

/-- The state s with a table row's command byte where step takes its next byte, and the framer where a command byte is
due. Log entry 17. -/
def State.withFetchWord (s : State) (nbits w : Nat) : State := placeCommand nbits w s

end Sys2Proof.Machine
end

