-- ==== Sys2Proof/Safety.lean ====
section
/-! DEFINITION. The terms claims are stated in: when an operation's preconditions hold, where its bytes go in closed
form, what is known of the memories, the invariant of the engine, and when a step is safe. -/

namespace Sys2Proof.Machine

/-! ### Preconditions (70_reset_and_hazards.md R303) -/

/-- The precondition of an operation that stores n bytes with the rect flag (43_rect.md R205). -/
def rectReady (rect : Bool) (n : Nat) (s : State) : Prop := rect = true → n ≠ 0 → s.rectSize ≠ 0

/-- The preconditions of a DMA operation (45_dma.md R243). -/
def dmaReady (s : State) : Prop :=
  s.dmaCount ≠ 0 → s.rectSize ≠ 0 ∧ s.dmaCount.toNat % s.rectSize.toNat = 0

/-- A collected bitmask payload of the wrong length: not 8 plus the number of selected ids, below 8 or above 36
(41_shadow_update.md R154). -/
def malformedUpdate (s : State) : Prop :=
  s.ucnt.toNat < 8 ∨ 36 < s.ucnt.toNat ∨
    s.ucnt.toNat ≠ 8 + (List.finRange 28).countP fun id => maskBit s.ubuf id

/-- A state whose next step has a meaning. -/
def Safe (s : State) : Prop := ∃ t, step s = .next t

/-! ### Addresses in closed form -/

/-- The host address of the j-th byte of an addressed operation (43_rect.md R202). -/
def cursorAt (rect : Bool) (s : State) (j : Nat) : HostAddr :=
  s.bufAddr + BitVec.ofNat 16 j +
    (if rect then BitVec.ofNat 16 (j / s.rectSize.toNat) * rectSkip s else 0)

/-- The host address of DMA chunk k (45_dma.md R246). -/
def chunkHost (rect : Bool) (s : State) (k : Nat) : HostAddr :=
  s.bufAddr + BitVec.ofNat 16 k * (s.rectSize.setWidth 16 + (if rect then rectSkip s else 0))

/-- The device address of DMA chunk k (45_dma.md R246). -/
def chunkDev (mode : DmaMode) (s : State) (k : Nat) : DevAddr :=
  match mode with
  | .incr => s.dmaDevAddr + BitVec.ofNat 24 k * s.rectSize.setWidth 24
  | .fixed => s.dmaDevAddr

/-- The event of DMA chunk k (45_dma.md R246). -/
def chunkEvent (dir : DmaDir) (mode : DmaMode) (rect : Bool) (s : State) (k : Nat) : Event :=
  .dmaXfer dir s.rectSize (chunkHost rect s k) (chunkDev mode s k)

/-- The events of a flush (41_shadow_update.md R157). -/
def flushEvents (bank chip : Chip) (s : State) : List Event :=
  (List.finRange 25).map fun o => .chipWrite chip o (shadowAt s bank o)

/-! ### Families of commands -/

/-- Runs the parts of a frame of kind k one after another. -/
def execParts (k : Kind) : List FramePart → State → Result
  | [], s => .next s
  | p :: ps, s => andThen (exec (k.instr p) s) (execParts k ps)

/-- The bitmask update that commits to a selection of chips (41_shadow_update.md R150 to R152). -/
def updateKind : UpdSel → Kind
  | .chip0 => .update
  | .chip1 => .update2
  | .both => .updateBoth

/-- The chips an update flushes, in order (41_shadow_update.md R154). -/
def updateChips : UpdSel → List Chip
  | .chip0 => [0]
  | .chip1 => [1]
  | .both => [0, 1]

/-- The single-register update of a bank (41_shadow_update.md R159, R162). -/
def regKind (bank : Chip) : Kind := if bank = 0 then .updateReg else .updateReg2

/-- The load to host memory with or without rectangular progression (R187, R207). -/
def loadKind (rect : Bool) : Kind := if rect then .loadRect else .load

/-- The fill with or without rectangular progression (R215, R217). -/
def fillKind (rect : Bool) : Kind := if rect then .fillRect else .fill

/-- The copy with or without rectangular progression (R219, R221). -/
def copyKind (rect : Bool) : Kind := if rect then .copyRect else .copy

/-- The commands that load a record, each with its record (40_framer_dispatch.md R128). -/
def recordKinds : List (Kind × Record) :=
  [(.addr, .addr), (.addrRect, .rect), (.fill, .fill), (.fillRect, .fill), (.copy, .copy), (.copyRect, .copy)]

/-- The DMA commands with their direction, addressing mode and rect flag (45_dma.md R235 to R241). -/
def dmaKinds : List (Kind × DmaDir × DmaMode × Bool) :=
  [(.dmaStash, .stash, .incr, false), (.dmaFetch, .fetch, .incr, false), (.dmaFill, .fetch, .fixed, false),
   (.dmaStashRect, .stash, .incr, true), (.dmaFetchRect, .fetch, .incr, true), (.dmaFillRect, .fetch, .fixed, true)]

/-- How many selected logical ids of a bitmask payload lie below id: the index of its value byte (30_encoding.md
R102). -/
def rank (u : Vector Septet 36) (id : LogicalId) : Nat :=
  (List.finRange 28).countP fun j => decide (j < id) && maskBit u j

/-! ### What is known of the memories -/

/-- The known byte of host memory at an address, if any. -/
def State.hostKnown (s : State) (a : HostAddr) : Option Byte := Memory.get? s.plat.hostMem a.toNat

/-- The known byte of device memory at an address, if any. -/
def State.devKnown (s : State) (d : DevAddr) : Option Byte := Memory.get? s.plat.devMem d.toNat

/-- The known byte of a register of a sound chip, if any. -/
def State.chipKnown (s : State) (c : Chip) (o : Offset) : Option Byte :=
  Memory.get? (s.plat.chip c) o.val

/-- The byte a MemRead at an address returns now (20_memory.md R62). -/
def State.hostByte (s : State) (a : HostAddr) : Byte := (s.plat.hostRead s.cfg a).1

/-- The byte the DMA device reads from its memory now (20_memory.md R64). -/
def State.devByte (s : State) (d : DevAddr) : Byte := (s.plat.devRead d).1

/-- No Exec has released the host processor, and every host address is plain RAM: what is written is what is read. -/
def State.plainRam (s : State) : Prop := s.plat.released = false ∧ s.cfg.ioRanges = []

/-! ### The working registers (40_framer_dispatch.md R121) -/

/-- The two states agree on everything but the framer's registers and the working registers that the start handler of
a command initialises: FSTATE, CMD, DH, SH, UBUF, UCNT, UR_HAVE, UR_IDX, LD_PENDING, LD_MASK, LD_IDX, CUR, COL, DCUR. -/
def sameButWorking (s t : State) : Prop :=
  t = { s with
    fstate := t.fstate, cmd := t.cmd, dh := t.dh, sh := t.sh
    ubuf := t.ubuf, ucnt := t.ucnt, urHave := t.urHave, urIdx := t.urIdx
    ldPending := t.ldPending, ldMask := t.ldMask, ldIdx := t.ldIdx
    cur := t.cur, col := t.col, dcur := t.dcur }

/-! ### The invariant -/

/-- What every step keeps. -/
structure State.Inv (s : State) : Prop where
  /-- R135: DH and SH are NOP whenever FSTATE is not DATA. -/
  outside : s.fstate ≠ .data → s.dh = .nop ∧ s.sh = .nop
  /-- R128, R129: in DATA they are the row of the command in CMD. -/
  inside : s.fstate = .data → (s.dh, s.sh) = handlersOf s.cfg s.cmd
  /-- R44: UCNT is at most 37. -/
  count : s.ucnt.toNat ≤ 37
  /-- R183: LD_IDX stays within the record being loaded. -/
  index : ∀ r rect, s.dh = .load (.record r) rect → s.ldIdx.toNat ≤ r.length
  /-- R207: inside a rectangular load COL is between 1 and RECT_SIZE. -/
  column : s.dh = .load .mem true → s.rectSize ≠ 0 → 1 ≤ s.col.toNat ∧ s.col.toNat ≤ s.rectSize.toNat
  /-- R67: the memories keep their form and stay inside their spaces. -/
  host : Memory.wf (2 ^ 16) s.plat.hostMem
  dev : Memory.wf (2 ^ 24) s.plat.devMem
  chip0 : Memory.wf 25 s.plat.chip0
  chip1 : Memory.wf 25 s.plat.chip1
  /-- R64: between steps the device holds no transfer length that the engine gave it. -/
  forgotten : ∀ n, s.plat.devLen ≠ .holds n
  /-- R262: after an Exec nothing outside the engine is known. -/
  unknown : s.plat.released = true →
    s.plat.hostMem = [] ∧ s.plat.devMem = [] ∧ s.plat.chip0 = [] ∧ s.plat.chip1 = [] ∧ s.plat.devLen = .unknown

end Sys2Proof.Machine
end

