-- ==== Sys2Proof/Certificates/Slice0/Obligations.lean ====
section
/-! DEFINITION. The statements for the provers, from the numbered rules of spec/. -/

open Sys2Proof Sys2Proof.Machine

/-! ### Reset and the invariant -/

/-- R300: after the reset input, from any state, every register of the engine holds the value of R300, and RECT_SKIP,
which follows, is 0; and the state State.reset is such a state. -/
def Obligations.ResetLeavesTheStateOfR300 : Prop :=
  ∀ s t : State, t = resetInput s ∨ t = State.reset →
    t.fstate = .idle ∧ t.cmd = 0 ∧ t.dh = .nop ∧ t.sh = .nop ∧ t.rxpend = false ∧
    (∀ c o, shadowAt t c o = 0) ∧ (∀ i : Fin 36, t.ubuf[i] = 0) ∧ t.ucnt = 0 ∧
    t.urHave = false ∧ t.urIdx = 0 ∧ t.ldPending = 0 ∧ t.ldMask = 0 ∧ t.ldIdx = 0 ∧
    t.cur = 0 ∧ t.col = 0 ∧ t.dcur = 0 ∧ t.bufAddr = 0 ∧ t.dmaDevAddr = 0 ∧ t.dmaCount = 0 ∧
    t.rectStart = 0 ∧ t.rectSize = 0 ∧ t.rectInc = 0 ∧ rectSkip t = 0 ∧
    t.fillValue = 0 ∧ t.fillCount = 0 ∧ t.copyFrom = 0 ∧ t.copyCount = 0

/-- R301: the reset input issues no event and does not empty RXQ, and no byte of a memory or of a chip is known after
it, nor the device's length register. That the parameters stay, and that a released host processor stays released, is
the model's choice (log entry 18), and so is the constant of a new epoch that an unknown byte of plain RAM reads as
(log entry 7). -/
def Obligations.ResetKeepsTheQueueAndKnowsNoMemory : Prop :=
  ∀ s t : State, t = resetInput s →
    t.plat.events = s.plat.events ∧ t.plat.rxq = s.plat.rxq ∧
    (∀ a, t.hostKnown a = none) ∧ (∀ d, t.devKnown d = none) ∧ (∀ c o, t.chipKnown c o = none) ∧
    t.plat.devLen = .unknown ∧ t.cfg = s.cfg ∧ t.plat.released = s.plat.released ∧
    (∀ a, s.plat.keeps s.cfg a = true → t.hostByte a = Config.powerOnHost (s.plat.epoch + 1) a)

/-- The invariant holds after reset: in State.reset, and after the reset input from any state. -/
def Obligations.ResetMeetsTheInvariant : Prop := State.reset.Inv ∧ ∀ s : State, (resetInput s).Inv

/-- Every step keeps the invariant, from every state that meets it. -/
def Obligations.EveryStepKeepsTheInvariant : Prop :=
  ∀ s t : State, s.Inv → step s = .next t → t.Inv

/-! ### The step and the framer -/

/-- R2, R60, R61: a step takes exactly the front byte of RXQ and is Step(b) of it; nothing a byte causes touches the
rest of the queue. With RXQ empty the machine waits (the model's choice, log entries 4 and 5). -/
def Obligations.StepTakesExactlyOneByte : Prop :=
  (∀ (s : State) b rest, s.plat.rxq = b :: rest →
    step s = stepByte b { s with rxpend := false, plat := { s.plat with rxq := rest } } ∧
    ∀ t, step s = .next t → t.plat.rxq = rest) ∧
  ∀ s : State, s.plat.rxq = [] → step s = .next { s with rxpend := false }

/-- When the front byte decodes to an instruction in the context the engine is in, the step is exec of it: at a
command byte after CMD is written, with FSTATE going to DATA (R126); at a payload byte of the command whose handlers
are installed, exec alone (R132); at frame stop, exec and then the reset of the handlers and FSTATE (R122). In each
case the byte is gone from RXQ (R60) and exec runs with RXPEND cleared: that every step clears it is the model's choice
(R61, log entry 5). -/
def Obligations.StepRunsTheDecodedInstruction : Prop :=
  ∀ (s r : State) b rest, s.plat.rxq = b :: rest →
    r = { s with rxpend := false, plat := { s.plat with rxq := rest } } →
    (s.fstate = .dispatch → ∀ i, decodeAt s.cfg none b = .ok i →
      step s = andThen (exec i { r with cmd := b.setWidth 7 }) fun t => .next { t with fstate := .data }) ∧
    (s.fstate = .data → ∀ k, (s.dh, s.sh) = startRow k → ∀ i, decodeAt s.cfg (some k) b = .ok i →
      (i.part ≠ .stop → step s = exec i r) ∧
      (i.part = .stop →
        step s = andThen (exec i r) fun t => .next { t with dh := .nop, sh := .nop, fstate := .idle }))

/-- R134: the transition table of FSTATE, a clause a cell or row, with the conditions it names. The stop handler that
runs in a state other than DATA is NOP by R135 (a premise of those clauses). -/
def Obligations.FramerFollowsTheTransitionTable : Prop :=
  ∀ s : State,
    (stepByte 0xF0#8 s = .next { s with dh := .nop, sh := .nop, fstate := .awaitManuf } ∧
      (Cond.eAbort ∈ conditions 0xF0#8 s ↔ s.fstate = .data)) ∧
    (stepByte 0xF7#8 s =
        andThen (runStop s.sh s) (fun t => .next { t with dh := .nop, sh := .nop, fstate := .idle }) ∧
      (Cond.eStrayStop ∈ conditions 0xF7#8 s ↔ s.fstate = .idle) ∧
      (s.dh = .nop → s.sh = .nop → stepByte 0xF7#8 s = .next { s with fstate := .idle })) ∧
    (∀ b : Byte, b.msb = true → b ≠ 0xF0#8 → b ≠ 0xF7#8 → stepByte b s = .next s ∧ conditions b s = []) ∧
    (∀ b : Byte, b.msb = false →
      (s.fstate = .idle → stepByte b s = .next s) ∧
      (s.fstate = .awaitManuf → b = s.cfg.manufId.setWidth 8 → stepByte b s = .next { s with fstate := .dispatch }) ∧
      (s.fstate = .awaitManuf → b ≠ s.cfg.manufId.setWidth 8 →
        stepByte b s = .next { s with fstate := .idle } ∧ Cond.eManuf ∈ conditions b s) ∧
      (s.fstate = .dispatch →
        stepByte b s =
          andThen (startHandler b { s with cmd := b.setWidth 7 }) fun t => .next { t with fstate := .data }) ∧
      (s.fstate = .data → stepByte b s = runData s.dh b s))

/-- R123: a real-time byte changes no register in any framer state and is passed to no handler, so the bytes of any
stream have the effect of the stream without its real-time bytes; it is taken from RXQ. (What the look at RXPEND that
comes before every byte leaves in RXPEND, log entry 5, is not said here.) -/
def Obligations.RealTimeBytesChangeNothing : Prop :=
  (∀ (s : State) b, classify b = .realTime → stepByte b s = .next s) ∧
  (∀ (s : State) b rest, classify b = .realTime → s.plat.rxq = b :: rest →
    ∃ t, step s = .next t ∧ t = { s with rxpend := t.rxpend, plat := { s.plat with rxq := rest } }) ∧
  ∀ (bs : List Byte) (s : State), feed bs s = feed (bs.filter fun b => classify b ≠ .realTime) s

/-- R121, R275: frame start resets the handlers and FSTATE and touches nothing else; the stop handler of the
interrupted frame is not run. -/
def Obligations.FrameStartAbortsAndTouchesNothingElse : Prop :=
  ∀ s : State, stepByte 0xF0#8 s = .next { s with dh := .nop, sh := .nop, fstate := .awaitManuf }

/-- R121: after a frame start the working registers of whatever was interrupted never matter: two engines that agree
on everything else do the same, byte for byte, whatever follows. -/
def Obligations.FrameStartMakesInterruptionsIrrelevant : Prop :=
  ∀ (s s' : State) (bs : List Byte), sameButWorking s s' → ∀ t, feed (0xF0#8 :: bs) s = .next t →
    ∃ t', feed (0xF0#8 :: bs) s' = .next t' ∧ sameButWorking t t' ∧
      t'.fstate = t.fstate ∧ t'.dh = t.dh ∧ t'.sh = t.sh

/-- R131: an unknown command writes CMD, installs no-op handlers and enters DATA; its payload is ignored up to frame
stop, which returns to IDLE. -/
def Obligations.UnknownCommandIsConsumed : Prop :=
  ∀ (s : State) (b : Byte), s.fstate = .dispatch → classify b = .data → kindOf s.cfg (b.setWidth 7) = none →
    stepByte b s = .next { s with cmd := b.setWidth 7, dh := .nop, sh := .nop, fstate := .data } ∧
    conditions b s = [.eUnknownCmd] ∧
    ∀ payload : List Byte, payload.all (fun x => !x.msb) = true →
      feed (b :: (payload ++ [0xF7#8])) s =
        .next { s with cmd := b.setWidth 7, dh := .nop, sh := .nop, fstate := .idle }

/-- The RXPEND flag only wakes the engine: what a step does never depends on it (R25, R61). -/
def Obligations.StepNeverDependsOnRxpend : Prop :=
  ∀ (s : State) (x : Bool), step { s with rxpend := x } = step s

/-- R60, R273: bytes that arrive while a step runs wait behind the queue and do not change what the step does; a
notification that arrives with them changes nothing either, since every step begins by clearing RXPEND, which is the
model's choice (R61, log entry 5). -/
def Obligations.BytesThatArriveLaterOnlyWait : Prop :=
  ∀ (s t : State) (bs : List Byte), s.plat.rxq ≠ [] → step s = .next t →
    step (deliver bs s) = .next (deliver bs t) ∧ step (notify (deliver bs s)) = .next (deliver bs t)

/-- What each output comes from (R41, R62, R63, R64, R65): the events a byte adds stand after the old ones, and each
kind of event comes only from its handler; every chip write carries a byte of a shadow array. -/
def Obligations.OutputsComeOnlyFromTheirHandlers : Prop :=
  ∀ (b : Byte) (s t : State), stepByte b s = .next t →
    ∃ new, t.plat.events = s.plat.events ++ new ∧ ∀ e ∈ new,
      match e with
      | .memRead _ => b = 0xF7#8 ∧ ∃ rect, s.sh = .copy rect
      | .memWrite _ _ =>
        (b = 0xF7#8 ∧ ∃ rect, s.sh = .fill rect ∨ s.sh = .copy rect) ∨
        (classify b = .data ∧ s.fstate = .data ∧ ∃ rect, s.dh = .load .mem rect)
      | .chipWrite _ o v =>
        b = 0xF7#8 ∧ ((∃ sel, s.sh = .updCommit sel) ∨ ∃ bank, s.sh = .flush bank) ∧
        ∃ bank, v = shadowAt t bank o
      | .dmaXfer dir n _ _ => b = 0xF7#8 ∧ (∃ mode rect, s.sh = .dma dir mode rect) ∧ n = s.rectSize ∧ n ≠ 0
      | .exec a => b = 0xF7#8 ∧ s.sh = .run ∧ s.cfg.execEnable = true ∧ a = s.bufAddr
      | .play x => b = 0xF7#8 ∧ s.sh = .play x

/-- Which registers and memories a byte can change, and only then (R20 to R24, R30 to R45, R210): the machine's frame,
with a clause for every register of R20. -/
def Obligations.RegistersChangeOnlyByTheirRules : Prop :=
  ∀ (b : Byte) (s t : State), stepByte b s = .next t →
    let dispatching := classify b = .data ∧ s.fstate = .dispatch
    let loading := fun r => classify b = .data ∧ s.fstate = .data ∧ ∃ rect, s.dh = .load (.record r) rect
    let storing := classify b = .data ∧ s.fstate = .data ∧ ∃ rect, s.dh = .load .mem rect
    let collecting := classify b = .data ∧ s.fstate = .data ∧ s.dh = .updMask
    let pairing := classify b = .data ∧ s.fstate = .data ∧ ∃ bank, s.dh = .updReg bank
    let stopping := fun sh => b = 0xF7#8 ∧ s.sh = sh
    t.cfg = s.cfg ∧ t.rxpend = s.rxpend ∧ t.plat.rxq = s.plat.rxq ∧
    (t.cmd ≠ s.cmd → dispatching) ∧
    (t.dh ≠ s.dh ∨ t.sh ≠ s.sh → b = 0xF0#8 ∨ b = 0xF7#8 ∨ dispatching) ∧
    (t.shadow ≠ s.shadow →
      (∃ sel, stopping (.updCommit sel)) ∨ pairing) ∧
    (t.fstate ≠ s.fstate → b = 0xF0#8 ∨ b = 0xF7#8 ∨ dispatching ∨ (classify b = .data ∧ s.fstate = .awaitManuf)) ∧
    (t.ubuf ≠ s.ubuf → collecting) ∧
    (t.ucnt ≠ s.ucnt → collecting ∨ (dispatching ∧ t.dh = .updMask)) ∧
    (t.urHave ≠ s.urHave → pairing ∨ (dispatching ∧ ∃ bank, t.dh = .updReg bank)) ∧
    (t.urIdx ≠ s.urIdx → pairing) ∧
    (t.ldMask ≠ s.ldMask → storing ∨ ∃ r, loading r) ∧
    (t.ldPending ≠ s.ldPending →
      storing ∨ (∃ r, loading r) ∨ (dispatching ∧ ∃ target rect, t.dh = .load target rect)) ∧
    (t.ldIdx ≠ s.ldIdx → (∃ r, loading r) ∨ (dispatching ∧ ∃ target rect, t.dh = .load target rect)) ∧
    (t.cur ≠ s.cur ∨ t.col ≠ s.col →
      storing ∨ (dispatching ∧ ∃ rect, t.dh = .load .mem rect) ∨ (∃ rect, stopping (.fill rect)) ∨
      (∃ rect, stopping (.copy rect)) ∨ ∃ dir mode rect, stopping (.dma dir mode rect)) ∧
    (t.dcur ≠ s.dcur → ∃ dir mode rect, stopping (.dma dir mode rect)) ∧
    (t.bufAddr ≠ s.bufAddr ∨ t.dmaDevAddr ≠ s.dmaDevAddr → loading .addr) ∧
    (t.dmaCount ≠ s.dmaCount → loading .addr ∨ ∃ dir mode rect, stopping (.dma dir mode rect)) ∧
    (t.rectStart ≠ s.rectStart ∨ t.rectSize ≠ s.rectSize ∨ t.rectInc ≠ s.rectInc → loading .rect) ∧
    (t.fillValue ≠ s.fillValue → loading .fill) ∧
    (t.fillCount ≠ s.fillCount → loading .fill ∨ ∃ rect, stopping (.fill rect)) ∧
    (t.copyFrom ≠ s.copyFrom ∨ t.copyCount ≠ s.copyCount → loading .copy ∨ ∃ rect, stopping (.copy rect)) ∧
    (t.plat.hostMem ≠ s.plat.hostMem → storing ∨ (∃ rect, stopping (.fill rect)) ∨ (∃ rect, stopping (.copy rect)) ∨
      (∃ mode rect, stopping (.dma .fetch mode rect)) ∨ stopping .run) ∧
    (t.plat.devMem ≠ s.plat.devMem → (∃ mode rect, stopping (.dma .stash mode rect)) ∨ stopping .run) ∧
    (t.plat.chip0 ≠ s.plat.chip0 ∨ t.plat.chip1 ≠ s.plat.chip1 →
      (∃ sel, stopping (.updCommit sel)) ∨ (∃ bank, stopping (.flush bank)) ∨ stopping .run) ∧
    (t.plat.released ≠ s.plat.released → stopping .run ∧ t.plat.released = true)

/-! ### Encoding -/

/-- Words written out from the encodings of opcode_table.json decode to their commands, one of each payload family and
more; and under the default parameters 106 of the 128 command bytes are no command (R97). -/
def Obligations.TableWordsDecodeToTheirCommands : Prop :=
  decodeTableWord 8 0b01001100 = some (.start .command) ∧
  decodeTableWord 8 0b01001110 = some (.update .command) ∧
  decodeTableWord 8 0b01010010 = some (.run .command) ∧
  decodeTableWord 8 0b01010100 = some (.addr .command) ∧
  decodeTableWord 8 0b01011010 = some (.copyRect .command) ∧
  decodeTableWord 8 0b01100000 = some (.dmaFillRect .command) ∧
  decodeTableWord 8 0b01101101 = some (.updateReg2 .command) ∧
  decodeTableWord 8 0b01001111 = none ∧
  ((List.range 128).filter fun n => (decodeTableWord 8 n).isNone).length = 106

/-- Decoding the byte of a well-formed instruction in its context gives the instruction back, whatever injective
command codes are configured (R95). -/
def Obligations.DecodeOfEncodeIsTheInstruction : Prop :=
  ∀ (c : Config) (i : Instr), c.codesDistinct → c.has i.kind = true → i.wf = true →
    ∃ b, encode c i = [b] ∧ decodeAt c i.context b = .ok i

/-- Decoding the bytes of a well-formed frame gives the frame back and leaves what follows it (R90, R91). -/
def Obligations.DecodeFrameOfEncodeFrameIsTheFrame : Prop :=
  ∀ (c : Config) (f : Frame) (rest : List Byte), c.codesDistinct → c.has f.kind = true → f.wf = true →
    decodeFrame c (encodeFrame c f ++ rest) = .ok (f, rest)

/-- The bytes of a whole frame, from any state, do what the parts of its command do one after another, between the
framer's two ends (R120 to R133). -/
def Obligations.WholeFrameRunsTheParts : Prop :=
  ∀ (s : State) (f : Frame), s.cfg.codesDistinct → s.cfg.has f.kind = true → f.wf = true →
    feed (encodeFrame s.cfg f) s =
      andThen (execParts f.kind f.parts
          { s with dh := .nop, sh := .nop, cmd := s.cfg.code f.kind, fstate := .data })
        fun t => .next { t with dh := .nop, sh := .nop, fstate := .idle }

/-- R107: the packer emits, for each group of up to 7 bytes, a mask byte with bit i the high bit of byte i and every
other bit 0, and then the low 7 bits of each byte; an L-byte array packs into L + ceil(L / 7) bytes, all of them data bytes, and the loader's
decoding of them reproduces the array exactly. -/
def Obligations.UnpackOfPackIsTheBytes : Prop :=
  (∀ g : List Byte, g ≠ [] → g.length ≤ 7 →
    ∃ m : Byte, pack7 g = m :: g.map (· &&& 0x7F#8) ∧ m.msb = false ∧
      (∀ i, (h : i < g.length) → m.getLsbD i = g[i].msb) ∧
      ∀ i, g.length ≤ i → m.getLsbD i = false) ∧
  (∀ g rest : List Byte, g.length = 7 → pack7 (g ++ rest) = pack7 g ++ pack7 rest) ∧
  ∀ bytes : List Byte,
    (pack7 bytes).length = bytes.length + (bytes.length + 6) / 7 ∧
    (pack7 bytes).all (fun b => !b.msb) = true ∧
    unpack7 (pack7 bytes) = bytes

/-! ### Start handlers, START, STOP, RUN -/

/-- R128: the start table, row by row, and its NONE row. -/
def Obligations.StartHandlersFollowTheTable : Prop :=
  ∀ s : State,
    exec (.start .command) s = .next { s with dh := .nop, sh := .play .start } ∧
    exec (.stop .command) s = .next { s with dh := .nop, sh := .play .stop } ∧
    exec (.update .command) s = .next { s with ucnt := 0, dh := .updMask, sh := .updCommit .chip0 } ∧
    exec (.update2 .command) s = .next { s with ucnt := 0, dh := .updMask, sh := .updCommit .chip1 } ∧
    exec (.updateBoth .command) s = .next { s with ucnt := 0, dh := .updMask, sh := .updCommit .both } ∧
    exec (.updateReg .command) s = .next { s with urHave := false, dh := .updReg 0, sh := .flush 0 } ∧
    exec (.updateReg2 .command) s = .next { s with urHave := false, dh := .updReg 1, sh := .flush 1 } ∧
    exec (.run .command) s = .next { s with dh := .nop, sh := .run } ∧
    exec (.load .command) s =
      .next { s with ldPending := 0, ldIdx := 0, cur := s.bufAddr, col := s.rectSize, dh := .load .mem false, sh := .nop } ∧
    exec (.loadRect .command) s =
      .next { s with ldPending := 0, ldIdx := 0, cur := s.bufAddr, col := s.rectSize, dh := .load .mem true, sh := .nop } ∧
    exec (.addr .command) s =
      .next { s with ldPending := 0, ldIdx := 0, dh := .load (.record .addr) false, sh := .nop } ∧
    exec (.addrRect .command) s =
      .next { s with ldPending := 0, ldIdx := 0, dh := .load (.record .rect) false, sh := .nop } ∧
    exec (.fill .command) s =
      .next { s with ldPending := 0, ldIdx := 0, dh := .load (.record .fill) false, sh := .fill false } ∧
    exec (.fillRect .command) s =
      .next { s with ldPending := 0, ldIdx := 0, dh := .load (.record .fill) false, sh := .fill true } ∧
    exec (.copy .command) s =
      .next { s with ldPending := 0, ldIdx := 0, dh := .load (.record .copy) false, sh := .copy false } ∧
    exec (.copyRect .command) s =
      .next { s with ldPending := 0, ldIdx := 0, dh := .load (.record .copy) false, sh := .copy true } ∧
    exec (.dmaStash .command) s = .next { s with dh := .nop, sh := .dma .stash .incr false } ∧
    exec (.dmaFetch .command) s = .next { s with dh := .nop, sh := .dma .fetch .incr false } ∧
    exec (.dmaFill .command) s = .next { s with dh := .nop, sh := .dma .fetch .fixed false } ∧
    exec (.dmaStashRect .command) s = .next { s with dh := .nop, sh := .dma .stash .incr true } ∧
    exec (.dmaFetchRect .command) s = .next { s with dh := .nop, sh := .dma .fetch .incr true } ∧
    exec (.dmaFillRect .command) s = .next { s with dh := .nop, sh := .dma .fetch .fixed true } ∧
    (∀ b : Byte, b.msb = false → kindOf s.cfg (b.setWidth 7) = none →
      startHandler b s = .next { s with dh := .nop, sh := .nop }) ∧
    (∀ (x : Septet) (k : Kind), s.cfg.has k = false → kindOf s.cfg x ≠ some k)

/-- R130: a command whose data handler is NOP ignores every data byte between its command byte and frame stop, and its
stop handler still runs at frame stop; START, STOP, RUN, the six DMA commands and unknown commands are such. -/
def Obligations.NoPayloadCommandsIgnoreDataBytes : Prop :=
  (∀ (k : Kind) (b : Byte) (s : State), k.family = .none →
    (startRow k).1 = .nop ∧ exec (k.instr (.data b)) s = .next s) ∧
  (∀ (c : Config) (x : Septet), kindOf c x = none → (handlersOf c x).1 = .nop) ∧
  ∀ (s : State) (bs : List Byte), s.fstate = .data → s.dh = .nop → bs.all (fun b => !b.msb) = true →
    feed bs s = .next s ∧ feed (bs ++ [0xF7#8]) s = frameStop s

/-- R136, R137: at frame stop START and STOP issue their event and change nothing else. -/
def Obligations.StartAndStopIssueTheirEvent : Prop :=
  ∀ s : State,
    exec (.start .stop) s =
      .next { s with plat := { s.plat with events := s.plat.events ++ [.play .start] } } ∧
    exec (.stop .stop) s =
      .next { s with plat := { s.plat with events := s.plat.events ++ [.play .stop] } }

/-- R260, R261, R262: at frame stop RUN issues Exec(BUFADDR) when EXEC_ENABLE and is a no-op otherwise; the engine's
registers stay, and nothing outside the engine is known afterwards. -/
def Obligations.RunHandsTheHostOver : Prop :=
  ∀ s : State,
    (s.cfg.execEnable = false → exec (.run .stop) s = .next s) ∧
    (s.cfg.execEnable = true → ∃ t, exec (.run .stop) s = .next t ∧
      t = { s with plat := t.plat } ∧
      t.plat.rxq = s.plat.rxq ∧ t.plat.free = s.plat.free ∧ t.plat.devLen = .unknown ∧
      t.plat.events = s.plat.events ++ [.exec s.bufAddr] ∧ t.plat.released = true ∧
      (∀ a, t.hostKnown a = none) ∧ (∀ d, t.devKnown d = none) ∧
      (∀ c o, t.chipKnown c o = none ∧ t.plat.chipReg t.cfg c o = none))

/-- U6: once released, the host processor stays released; every later read of host memory or of the device is a free
byte, no chip register has a value, and no step leaves a transfer length that is known (log entry 8). -/
def Obligations.AfterExecNothingOutsideIsKnown : Prop :=
  (∀ s t : State, s.plat.released = true → step s = .next t → t.plat.released = true ∧
    (s.plat.devLen = .unknown → t.plat.devLen = .unknown)) ∧
  ∀ (s : State), s.plat.released = true →
    (∀ a d, s.hostByte a = Config.freeByte s.plat.free ∧ s.devByte d = Config.freeByte s.plat.free) ∧
    ∀ c o, s.plat.chipReg s.cfg c o = none

/-! ### The shadow store -/

/-- R153: a payload byte of UPDATE, UPDATE2 or UPDATE_BOTH is kept in UBUF and counted; beyond 36 bytes the count is 37
and nothing is kept. -/
def Obligations.UpdatePayloadIsCollected : Prop :=
  ∀ (sel : UpdSel) (b : Byte) (s : State),
    (s.ucnt.toNat < 36 → ∃ t, exec ((updateKind sel).instr (.data b)) s = .next t ∧
      t = { s with ubuf := t.ubuf, ucnt := s.ucnt + 1 } ∧
      ∀ i : Fin 36, t.ubuf[i] = if i.val = s.ucnt.toNat then b.setWidth 7 else s.ubuf[i]) ∧
    (36 ≤ s.ucnt.toNat → exec ((updateKind sel).instr (.data b)) s = .next { s with ucnt := 37 })

/-- R154: a payload whose length is not 8 plus the number of selected ids, or is below 8 or above 36, is dropped whole,
and E_LEN is raised then, and in no other step. -/
def Obligations.MalformedUpdateIsDropped : Prop :=
  (∀ (sel : UpdSel) (s : State), malformedUpdate s → exec ((updateKind sel).instr .stop) s = .next s) ∧
  ∀ (b : Byte) (s : State), Cond.eLen ∈ conditions b s ↔
    b = 0xF7#8 ∧ s.fstate = .data ∧ (∃ sel, s.sh = .updCommit sel) ∧ malformedUpdate s

/-- R154 to R157: a payload of the right length is decoded into the bank and flushed. The byte at REGMAP of a selected
id is its value byte with its high bit, unless a higher selected id has the same offset; a byte no selected id names
keeps its value; the other bank is untouched; the events are the full flushes of the selected chips, and those chips
then hold the bank. -/
def Obligations.WellFormedUpdateIsDecodedAndFlushed : Prop :=
  ∀ (sel : UpdSel) (s : State), 8 ≤ s.ucnt.toNat → s.ucnt.toNat ≤ 36 →
    s.ucnt.toNat = 8 + (List.finRange 28).countP (fun id => maskBit s.ubuf id) →
    ∃ t, exec ((updateKind sel).instr .stop) s = .next t ∧
      t = { s with shadow := t.shadow, plat := t.plat } ∧
      (∀ id : LogicalId, maskBit s.ubuf id = true →
        (∀ id' : LogicalId, id < id' → maskBit s.ubuf id' = true → s.cfg.regmap[id'] ≠ s.cfg.regmap[id]) →
        ∃ x, s.ubuf.toList[8 + rank s.ubuf id]? = some x ∧
          shadowAt t sel.bank s.cfg.regmap[id] = withHigh (x.setWidth 8) (msbBit s.ubuf id)) ∧
      (∀ o : Offset, (∀ id : LogicalId, maskBit s.ubuf id = true → s.cfg.regmap[id] ≠ o) →
        shadowAt t sel.bank o = shadowAt s sel.bank o) ∧
      (∀ c o, c ≠ sel.bank → shadowAt t c o = shadowAt s c o) ∧
      t.plat.events = s.plat.events ++ (updateChips sel).flatMap (fun chip => flushEvents sel.bank chip t) ∧
      t.plat = { s.plat with events := t.plat.events, chip0 := t.plat.chip0, chip1 := t.plat.chip1 } ∧
      (∀ c o, c ∉ updateChips sel → t.chipKnown c o = s.chipKnown c o) ∧
      (∀ c o, c ∈ updateChips sel → s.plat.released = false → (c = 1 → s.cfg.chip1Connected = true) →
        t.chipKnown c o = some (shadowAt t sel.bank o))

/-- R164: repeating the identical update leaves the shadow as it was and issues the same chip writes again. -/
def Obligations.RepeatedUpdateChangesNothing : Prop :=
  ∀ (sel : UpdSel) (s t u : State),
    exec ((updateKind sel).instr .stop) s = .next t → exec ((updateKind sel).instr .stop) t = .next u →
    u.shadow = t.shadow ∧
    ∃ new, t.plat.events = s.plat.events ++ new ∧ u.plat.events = t.plat.events ++ new

/-- R161: the first byte of a pair waits; the second writes the value to REGMAP of the id when the id is below 28, and
is dropped otherwise. -/
def Obligations.RegisterPairIsAppliedAtOnce : Prop :=
  ∀ (bank : Chip) (b : Byte) (s : State),
    (s.urHave = false →
      exec ((regKind bank).instr (.data b)) s = .next { s with urIdx := b.setWidth 7, urHave := true }) ∧
    (s.urHave = true → ∀ id : LogicalId, id.val = s.urIdx.toNat % 64 →
      ∃ t, exec ((regKind bank).instr (.data b)) s = .next t ∧
        t = { s with urHave := false, shadow := t.shadow } ∧
        ∀ c o, shadowAt t c o =
          if c = bank ∧ o = s.cfg.regmap[id] then b ||| (if s.urIdx.getLsbD 6 then 0x80#8 else 0#8)
          else shadowAt s c o) ∧
    (s.urHave = true → 28 ≤ s.urIdx.toNat % 64 →
      exec ((regKind bank).instr (.data b)) s = .next { s with urHave := false } ∧
      (s.fstate = .data → s.dh = .updReg bank → b.msb = false → conditions b s = [.eRegRange]))

/-- R157, R160, R163: the start handler of a single-register frame discards a waiting index byte; the frame stop
flushes the bank to its chip, all 25 offsets in order, whatever was sent, also when an index byte still waits, which is
then the dangling condition; nothing else changes, and the chip then holds the bank. -/
def Obligations.RegisterFrameFlushesItsBank : Prop :=
  ∀ (bank : Chip) (s : State),
    exec ((regKind bank).instr .command) s =
      .next { s with urHave := false, dh := .updReg bank, sh := .flush bank } ∧
    (s.fstate = .data → s.dh = .updReg bank → s.sh = .flush bank →
      (Cond.ePairDangling ∈ conditions 0xF7#8 s ↔ s.urHave = true)) ∧
    ∃ t, exec ((regKind bank).instr .stop) s = .next t ∧
      t = { s with plat := t.plat } ∧
      t.plat.events = s.plat.events ++ (List.finRange 25).map (fun o => .chipWrite bank o (shadowAt s bank o)) ∧
      t.plat = { s.plat with events := t.plat.events, chip0 := t.plat.chip0, chip1 := t.plat.chip1 } ∧
      (∀ c o, c ≠ bank → t.chipKnown c o = s.chipKnown c o) ∧
      (∀ o, s.plat.released = false → (bank = 1 → s.cfg.chip1Connected = true) →
        t.chipKnown bank o = some (shadowAt s bank o))

/-! ### The loader and the records -/

/-- R181: with no byte owed, a data byte of any of the eight packed commands is a new mask byte and is stored nowhere. -/
def Obligations.MaskByteStartsAGroup : Prop :=
  ∀ (k : Kind) (b : Byte) (s : State), k.family = .packed → s.ldPending = 0 →
    exec (k.instr (.data b)) s = .next { s with ldMask := b.setWidth 7, ldPending := 7 }

/-- R181, R182, R204: with bytes owed, a data byte of LOAD or LOAD_RECT is stored at the cursor with the next mask bit
as its bit 7, and the cursor advances, at a row end by the skip as well. -/
def Obligations.LoadStoresTheDecodedByte : Prop :=
  ∀ (rect : Bool) (b v : Byte) (s : State), s.ldPending ≠ 0 → rectReady rect 1 s →
    v = b ||| (if s.ldMask.getLsbD 0 then 0x80#8 else 0#8) →
    ∃ t, exec ((loadKind rect).instr (.data b)) s = .next t ∧
      t = { s with ldMask := s.ldMask >>> 1, ldPending := s.ldPending - 1, cur := t.cur, col := t.col, plat := t.plat } ∧
      t.plat.events = s.plat.events ++ [.memWrite s.cur v] ∧
      t.plat = { s.plat with events := t.plat.events, hostMem := t.plat.hostMem } ∧
      (∀ a, a ≠ s.cur → t.hostKnown a = s.hostKnown a) ∧
      (s.plat.keeps s.cfg s.cur = true → t.hostKnown s.cur = some v) ∧
      (rect = false → t.cur = s.cur + 1 ∧ t.col = s.col) ∧
      (rect = true → s.col - 1 ≠ 0 → t.cur = s.cur + 1 ∧ t.col = s.col - 1) ∧
      (rect = true → s.col - 1 = 0 → t.cur = s.cur + 1 + rectSkip s ∧ t.col = s.rectSize)

/-- R183: with bytes owed, a data byte of a record load (ADDR, ADDR_RECT, FILL, FILL_RECT, COPY, COPY_RECT) replaces
byte LD_IDX of the record and moves LD_IDX on, or is dropped beyond its end with the overrun condition; no other record,
no memory and no event is touched. -/
def Obligations.RecordLoadStoresTheDecodedByte : Prop :=
  ∀ (k : Kind) (r : Record), (k, r) ∈ recordKinds → ∀ (b v : Byte) (s : State), s.ldPending ≠ 0 →
    v = b ||| (if s.ldMask.getLsbD 0 then 0x80#8 else 0#8) →
    ∃ t, exec (k.instr (.data b)) s = .next t ∧
      recordBytes t r = (recordBytes s r).set s.ldIdx.toNat v ∧
      (∀ r', r' ≠ r → recordBytes t r' = recordBytes s r') ∧
      (s.ldIdx.toNat < r.length → t.ldIdx = s.ldIdx + 1) ∧
      (r.length ≤ s.ldIdx.toNat → t.ldIdx = s.ldIdx) ∧
      (s.fstate = .data → s.dh = .load (.record r) false → b.msb = false →
        (Cond.eRecOverrun ∈ conditions b s ↔ r.length ≤ s.ldIdx.toNat)) ∧
      t = { s with
        ldMask := s.ldMask >>> 1, ldPending := s.ldPending - 1, ldIdx := t.ldIdx
        bufAddr := t.bufAddr, dmaDevAddr := t.dmaDevAddr, dmaCount := t.dmaCount
        rectStart := t.rectStart, rectSize := t.rectSize, rectInc := t.rectInc
        fillValue := t.fillValue, fillCount := t.fillCount, copyFrom := t.copyFrom, copyCount := t.copyCount }

/-- R181, R182, R183: from no byte owed, P payload bytes carry P - ceil(P / 8) decoded bytes, since each mask byte
serves up to 7 payload bytes: a load to host memory writes exactly those, in order, from the cursor, at the addresses of
R202 when it is rectangular and just started; a record load replaces the leading bytes of its record by them. (R185,
which the spec marks as its own inference, says P - ceil(P / 7): log entry 19.) -/
def Obligations.PayloadCarriesSevenEighths : Prop :=
  ∀ (payload vs : List Byte) (s : State), payload.all (fun b => !b.msb) = true → vs = unpack7 payload →
    s.fstate = .data → s.ldPending = 0 →
    vs.length = payload.length - (payload.length + 7) / 8 ∧
    (s.dh = .load .mem false → ∃ t, feed payload s = .next t ∧
      t.plat.events = s.plat.events ++ vs.mapIdx (fun j v => .memWrite (s.cur + BitVec.ofNat 16 j) v) ∧
      t.cur = s.cur + BitVec.ofNat 16 vs.length) ∧
    (s.dh = .load .mem true → s.cur = s.bufAddr → s.col = s.rectSize → rectReady true vs.length s →
      ∃ t, feed payload s = .next t ∧
        t.plat.events = s.plat.events ++ vs.mapIdx (fun j v => .memWrite (cursorAt true s j) v) ∧
        t.cur = cursorAt true s vs.length) ∧
    (∀ r, s.dh = .load (.record r) false → s.ldIdx = 0 → ∃ t, feed payload s = .next t ∧
      recordBytes t r = vs.take r.length ++ (recordBytes s r).drop vs.length ∧ t.plat = s.plat)

/-- R184, R186, R187, R206, R207: the loads have no stop action. -/
def Obligations.LoadsHaveNoStopAction : Prop :=
  ∀ s : State, exec (.addr .stop) s = .next s ∧ exec (.addrRect .stop) s = .next s ∧
    exec (.load .stop) s = .next s ∧ exec (.loadRect .stop) s = .next s

/-- R205: a rectangular operation that stores at least one byte while RECT_SIZE is 0 has no meaning; one that stores no
byte (an empty LOAD_RECT, a count of 0) is legal with any RECT record. The condition names exactly the first. That the
first is the refusal rectSizeZero, and that it carries a state in which the first store has happened, is the model's
choice (log entry 13; that the store precedes the requirement follows from R182, R204, R216, R220 and vector VR8). -/
def Obligations.RectangularStoreNeedsASize : Prop :=
  ∀ s : State, s.rectSize = 0 →
    (∀ b : Byte, s.ldPending ≠ 0 → ∃ u, exec (.loadRect (.data b)) s = .refused (.rectSizeZero u) ∧
      u.plat.events = s.plat.events ++ [.memWrite s.cur (withHigh b (s.ldMask.getLsbD 0))]) ∧
    (s.fillCount ≠ 0 → ∃ u, exec (.fillRect .stop) s = .refused (.rectSizeZero u) ∧
      u.plat.events = s.plat.events ++ [.memWrite s.bufAddr s.fillValue]) ∧
    (s.copyCount ≠ 0 → ∃ u, exec (.copyRect .stop) s = .refused (.rectSizeZero u) ∧
      u.plat.events = s.plat.events ++ [.memRead s.copyFrom, .memWrite s.bufAddr (s.hostByte s.copyFrom)]) ∧
    (∃ t, exec (.loadRect .command) s = .next t ∧ exec (.loadRect .stop) t = .next t ∧ t.plat = s.plat) ∧
    (s.fillCount = 0 → exec (.fillRect .stop) s = .next { s with cur := s.bufAddr, col := 0 }) ∧
    (s.copyCount = 0 → exec (.copyRect .stop) s = .next { s with cur := s.bufAddr, col := 0 }) ∧
    (s.dh = .load .mem true → (Cond.eRectSize0 ∈ dataConds s ↔ s.ldPending ≠ 0)) ∧
    (s.sh = .fill true → (Cond.eRectSize0 ∈ stopConds s ↔ s.fillCount ≠ 0)) ∧
    (s.sh = .copy true → (Cond.eRectSize0 ∈ stopConds s ↔ s.copyCount ≠ 0))

/-- R37: RECT_SKIP is inc × (start − size) modulo 2^16, whatever the three registers hold. -/
def Obligations.SkipIsIncTimesStartMinusSize : Prop :=
  ∀ s : State,
    ((rectSkip s).toNat : Int) =
      ((s.rectInc.toNat : Int) * ((s.rectStart.toNat : Int) - (s.rectSize.toNat : Int))) % 65536

/-- R35, R36, R183, R186, R206: a whole ADDR or ADDR_RECT frame that carries some bytes replaces the leading bytes of
its record by them, drops what is beyond the record, and touches nothing but working registers otherwise. -/
def Obligations.RecordFrameReplacesTheLeadingBytes : Prop :=
  ∀ (k : Kind) (r : Record), (k, r) ∈ [(Kind.addr, Record.addr), (Kind.addrRect, Record.rect)] →
    ∀ (s : State) (bytes : List Byte), s.cfg.codesDistinct → s.cfg.has k = true →
      ∃ t, feed (encodeFrame s.cfg ⟨k, pack7 bytes⟩) s = .next t ∧
        recordBytes t r = bytes.take r.length ++ (recordBytes s r).drop bytes.length ∧
        (∀ r', r' ≠ r → recordBytes t r' = recordBytes s r') ∧
        t.plat = s.plat ∧ t.cfg = s.cfg ∧ t.shadow = s.shadow ∧ t.cur = s.cur ∧ t.col = s.col ∧
        t.fstate = .idle

/-- R187, R202, R207: a whole LOAD or LOAD_RECT frame that carries some bytes writes byte j to the address of R202, in
order, and touches nothing but working registers otherwise; where several bytes go to one address the last stays. -/
def Obligations.LoadFrameStoresItsBytes : Prop :=
  ∀ (rect : Bool) (s : State) (bytes : List Byte), s.cfg.codesDistinct → s.cfg.has (loadKind rect) = true →
    rectReady rect bytes.length s →
    ∃ t, feed (encodeFrame s.cfg ⟨loadKind rect, pack7 bytes⟩) s = .next t ∧
      t.plat.events = s.plat.events ++ bytes.mapIdx (fun j v => .memWrite (cursorAt rect s j) v) ∧
      sameButWorking s { t with plat := s.plat } ∧
      t.plat = { s.plat with events := t.plat.events, hostMem := t.plat.hostMem } ∧
      (∀ a, (∀ j < bytes.length, cursorAt rect s j ≠ a) → t.hostKnown a = s.hostKnown a) ∧
      (∀ j v, bytes[j]? = some v →
        (∀ i, j < i → i < bytes.length → cursorAt rect s i ≠ cursorAt rect s j) →
        s.plat.keeps s.cfg (cursorAt rect s j) = true → t.hostKnown (cursorAt rect s j) = some v) ∧
      t.cur = cursorAt rect s bytes.length ∧ t.fstate = .idle

/-! ### Fill and copy -/

/-- R202, R203, R204, R216: a fill writes FILL_VALUE to FILL_COUNT addresses in order, ends with FILL_COUNT = 0, and
changes nothing but the cursor otherwise. -/
def Obligations.FillWritesItsCount : Prop :=
  ∀ (rect : Bool) (s : State), rectReady rect s.fillCount.toNat s →
    ∃ t, exec ((fillKind rect).instr .stop) s = .next t ∧
      t = { s with cur := cursorAt rect s s.fillCount.toNat, col := t.col, fillCount := 0, plat := t.plat } ∧
      t.plat.events = s.plat.events ++
        (List.range s.fillCount.toNat).map (fun j => .memWrite (cursorAt rect s j) s.fillValue) ∧
      t.plat = { s.plat with events := t.plat.events, hostMem := t.plat.hostMem } ∧
      (∀ a, (∀ j < s.fillCount.toNat, cursorAt rect s j ≠ a) → t.hostKnown a = s.hostKnown a) ∧
      (∀ j < s.fillCount.toNat, s.plat.keeps s.cfg (cursorAt rect s j) = true →
        t.hostKnown (cursorAt rect s j) = some s.fillValue) ∧
      (rect = false → t.col = s.rectSize) ∧
      (rect = true → s.rectSize ≠ 0 →
        t.col.toNat = s.rectSize.toNat - s.fillCount.toNat % s.rectSize.toNat)

/-- R202, R203, R204, R220: a copy reads COPY_COUNT source bytes in order, each after the previous write, and writes
each to its destination; it ends with COPY_COUNT = 0, COPY_FROM advanced by the count, and CUR and COL where
CursorInit and the advances leave them. In plain RAM the byte read is the last one the copy wrote to the source address,
or what was there before. -/
def Obligations.CopyMovesItsCount : Prop :=
  ∀ (rect : Bool) (s : State) (n : Nat), n = s.copyCount.toNat → rectReady rect n s →
    ∃ (t : State) (vs : List Byte), exec ((copyKind rect).instr .stop) s = .next t ∧ vs.length = n ∧
      t = { s with
        cur := cursorAt rect s n, col := t.col, copyFrom := s.copyFrom + BitVec.ofNat 16 n, copyCount := 0
        plat := t.plat } ∧
      t.plat.events = s.plat.events ++
        (vs.mapIdx fun j v => [Event.memRead (s.copyFrom + BitVec.ofNat 16 j), .memWrite (cursorAt rect s j) v]).flatten ∧
      t.plat = { s.plat with events := t.plat.events, hostMem := t.plat.hostMem, free := t.plat.free } ∧
      (rect = false → t.col = s.rectSize) ∧
      (rect = true → s.rectSize ≠ 0 → t.col.toNat = s.rectSize.toNat - n % s.rectSize.toNat) ∧
      (∀ a, (∀ j < n, cursorAt rect s j ≠ a) → t.hostKnown a = s.hostKnown a) ∧
      (s.plainRam → ∀ j v, vs[j]? = some v →
        ((∀ i < j, cursorAt rect s i ≠ s.copyFrom + BitVec.ofNat 16 j) →
          v = s.hostByte (s.copyFrom + BitVec.ofNat 16 j)) ∧
        (∀ i < j, cursorAt rect s i = s.copyFrom + BitVec.ofNat 16 j →
          (∀ i', i < i' → i' < j → cursorAt rect s i' ≠ s.copyFrom + BitVec.ofNat 16 j) → vs[i]? = some v) ∧
        ((∀ i, j < i → i < n → cursorAt rect s i ≠ cursorAt rect s j) → t.hostKnown (cursorAt rect s j) = some v))

/-- R220: in plain RAM a linear copy is exact unless the destination lies above the source within the count; then the
first bytes of the source repeat with the distance d as their period (j % 0 is j: copying onto itself is exact). -/
def Obligations.OverlappingCopyRepeatsTheSource : Prop :=
  ∀ (s : State) (d : Nat), s.plainRam → d = (s.bufAddr - s.copyFrom).toNat →
    ∃ t, exec (.copy .stop) s = .next t ∧
      ∀ j < s.copyCount.toNat,
        t.hostByte (s.bufAddr + BitVec.ofNat 16 j) = s.hostByte (s.copyFrom + BitVec.ofNat 16 (j % d))

/-! ### DMA -/

/-- R64: in plain RAM a transfer of n bytes copies them in ascending order between the host and the device, both
addresses wrapping, changes no other byte, and leaves the device without a transfer length. -/
def Obligations.DmaTransferMovesItsBytes : Prop :=
  ∀ (n : Byte) (h : HostAddr) (d : DevAddr) (s : State), s.plainRam →
    (∃ t, t = dmaXfer .stash n h d s ∧
      t = { s with plat := { s.plat with
        events := s.plat.events ++ [.dmaXfer .stash n h d], devMem := t.plat.devMem, devLen := .forgotten } } ∧
      (∀ i < n.toNat, t.devKnown (d + BitVec.ofNat 24 i) = some (s.hostByte (h + BitVec.ofNat 16 i))) ∧
      ∀ x, (∀ i < n.toNat, d + BitVec.ofNat 24 i ≠ x) → t.devKnown x = s.devKnown x) ∧
    (∃ t, t = dmaXfer .fetch n h d s ∧
      t = { s with plat := { s.plat with
        events := s.plat.events ++ [.dmaXfer .fetch n h d], hostMem := t.plat.hostMem, devLen := .forgotten } } ∧
      (∀ i < n.toNat, t.hostKnown (h + BitVec.ofNat 16 i) = some (s.devByte (d + BitVec.ofNat 24 i))) ∧
      ∀ x, (∀ i < n.toNat, h + BitVec.ofNat 16 i ≠ x) → t.hostKnown x = s.hostKnown x)

/-- R240, R246: when DMA_COUNT is a multiple of RECT_SIZE, a DMA command issues exactly DMA_COUNT / RECT_SIZE
transfers, at the addresses of R246, ends with DMA_COUNT = 0, and changes no register beyond CUR, COL and DCUR; a
stash changes only device bytes of its chunks, a fetch only host bytes of its chunks. The device's length register is
then as a transfer leaves it: forgotten (R64), or unknown once an Exec was issued (R262), which is the model's choice
(log entries 8 and 12). -/
def Obligations.DmaIssuesItsChunks : Prop :=
  ∀ (k : Kind) (dir : DmaDir) (mode : DmaMode) (rect : Bool), (k, dir, mode, rect) ∈ dmaKinds →
    ∀ (s : State) (n : Nat), dmaReady s → n = s.dmaCount.toNat / s.rectSize.toNat →
      ∃ t, exec (k.instr .stop) s = .next t ∧
        t = { s with
          cur := chunkHost rect s n, col := s.rectSize, dcur := chunkDev mode s n, dmaCount := 0
          plat := t.plat } ∧
        t.plat.events = s.plat.events ++ (List.range n).map (chunkEvent dir mode rect s) ∧
        t.plat.devLen = (if n = 0 then s.plat.devLen else s.plat.lengthAfter) ∧
        (dir = .stash → t.plat = { s.plat with
          events := t.plat.events, devMem := t.plat.devMem, devLen := t.plat.devLen, free := t.plat.free }) ∧
        (dir = .fetch → t.plat = { s.plat with
          events := t.plat.events, hostMem := t.plat.hostMem, devLen := t.plat.devLen, free := t.plat.free }) ∧
        (∀ x, (∀ j < n, ∀ i < s.rectSize.toNat, chunkDev mode s j + BitVec.ofNat 24 i ≠ x) →
          t.devKnown x = s.devKnown x) ∧
        (∀ a, (∀ j < n, ∀ i < s.rectSize.toNat, chunkHost rect s j + BitVec.ofNat 16 i ≠ a) →
          t.hostKnown a = s.hostKnown a)

/-- R235 to R239, R241: in plain RAM DMA_STASH copies the host region to the device region, DMA_FETCH the other way,
DMA_FILL repeats one device row over the host region, DMA_STASH_RECT packs the rows of a host rectangle into the device
region, and DMA_FETCH_RECT and DMA_FILL_RECT write a host rectangle from a packed region and from one row; where bytes
of several rows of a host rectangle go to one address the last stays. -/
def Obligations.DmaCopiesItsRegion : Prop :=
  ∀ (s : State) (row : Nat → HostAddr), s.plainRam → dmaReady s →
    (∀ j, row j = chunkHost true s (j / s.rectSize.toNat) + BitVec.ofNat 16 (j % s.rectSize.toNat)) →
    (∃ t, exec (.dmaStash .stop) s = .next t ∧ ∀ j < s.dmaCount.toNat,
      t.devKnown (s.dmaDevAddr + BitVec.ofNat 24 j) = some (s.hostByte (s.bufAddr + BitVec.ofNat 16 j))) ∧
    (∃ t, exec (.dmaFetch .stop) s = .next t ∧ ∀ j < s.dmaCount.toNat,
      t.hostKnown (s.bufAddr + BitVec.ofNat 16 j) = some (s.devByte (s.dmaDevAddr + BitVec.ofNat 24 j))) ∧
    (∃ t, exec (.dmaFill .stop) s = .next t ∧ ∀ j < s.dmaCount.toNat,
      t.hostKnown (s.bufAddr + BitVec.ofNat 16 j) =
        some (s.devByte (s.dmaDevAddr + BitVec.ofNat 24 (j % s.rectSize.toNat)))) ∧
    (∃ t, exec (.dmaStashRect .stop) s = .next t ∧ ∀ j < s.dmaCount.toNat,
      t.devKnown (s.dmaDevAddr + BitVec.ofNat 24 j) = some (s.hostByte (row j))) ∧
    (∃ t, exec (.dmaFetchRect .stop) s = .next t ∧ ∀ j < s.dmaCount.toNat,
      (∀ i, j < i → i < s.dmaCount.toNat → row i ≠ row j) →
      t.hostKnown (row j) = some (s.devByte (s.dmaDevAddr + BitVec.ofNat 24 j))) ∧
    (∃ t, exec (.dmaFillRect .stop) s = .next t ∧ ∀ j < s.dmaCount.toNat,
      (∀ i, j < i → i < s.dmaCount.toNat → row i ≠ row j) →
      t.hostKnown (row j) = some (s.devByte (s.dmaDevAddr + BitVec.ofNat 24 (j % s.rectSize.toNat))))

/-- R243: a DMA command with RECT_SIZE = 0 and a count never completes (the model's choice between the treatments of U5,
log entry 13); one whose count is no multiple of RECT_SIZE has no meaning once fewer bytes remain than one chunk, and
the chunks issued before that stand; the conditions name exactly these cases; a count of 0 is legal with any RECT_SIZE
and issues nothing, and one that RECT_SIZE divides completes. -/
def Obligations.DmaStopsOnAViolatedPrecondition : Prop :=
  ∀ (k : Kind) (dir : DmaDir) (mode : DmaMode) (rect : Bool), (k, dir, mode, rect) ∈ dmaKinds →
    ∀ s : State,
      (s.dmaCount ≠ 0 → s.rectSize = 0 →
        exec (k.instr .stop) s =
          .fault (.dmaStuck { s with cur := s.bufAddr, col := 0, dcur := s.dmaDevAddr })) ∧
      (s.rectSize ≠ 0 → s.dmaCount.toNat % s.rectSize.toNat ≠ 0 →
        ∃ u, exec (k.instr .stop) s = .refused (.dmaMisaligned u) ∧
          u.dmaCount.toNat = s.dmaCount.toNat % s.rectSize.toNat ∧
          u.plat.events = s.plat.events ++
            (List.range (s.dmaCount.toNat / s.rectSize.toNat)).map (chunkEvent dir mode rect s)) ∧
      (s.dmaCount = 0 →
        exec (k.instr .stop) s = .next { s with cur := s.bufAddr, col := s.rectSize, dcur := s.dmaDevAddr }) ∧
      (s.rectSize ≠ 0 → s.dmaCount.toNat % s.rectSize.toNat = 0 → ∃ t, exec (k.instr .stop) s = .next t) ∧
      (s.sh = .dma dir mode rect →
        (Cond.eDmaSize0 ∈ stopConds s ↔ s.dmaCount ≠ 0 ∧ s.rectSize = 0) ∧
        (Cond.eDmaMisalign ∈ stopConds s ↔
          s.rectSize ≠ 0 ∧ s.dmaCount.toNat % s.rectSize.toNat ≠ 0))

/-! ### Conditions -/

/-- R274: a step raises at most one condition, but for a dangling pair that coincides with an abort. -/
def Obligations.AtMostOneConditionAStep : Prop :=
  ∀ (b : Byte) (s : State),
    (conditions b s).length ≤ 1 ∨ conditions b s = [.eAbort, .ePairDangling]

/-- R205, R243, R270: from a state that meets the invariant, a step has a next state exactly when it raises none of
the three conditions whose behaviour is unspecified; every other condition lets the machine go on. -/
def Obligations.OnlyThreeConditionsStopTheMachine : Prop :=
  ∀ (s : State) b rest, s.Inv → s.plat.rxq = b :: rest →
    ((∃ t, step s = .next t) ↔
      Cond.eRectSize0 ∉ conditions b s ∧ Cond.eDmaMisalign ∉ conditions b s ∧ Cond.eDmaSize0 ∉ conditions b s)
end

