-- ==== Sys2Proof/Laws/State.lean ====
section
/-! SUPPORT. One lemma per field for each named update of the state, true by rfl, so that no later proof unfolds a
record update. -/

namespace Sys2Proof.Machine


/-! ### emit -/

@[simp] theorem emit_fstate (e : Event) (s : State) : (emit e s).fstate = s.fstate := rfl
@[simp] theorem emit_cmd (e : Event) (s : State) : (emit e s).cmd = s.cmd := rfl
@[simp] theorem emit_dh (e : Event) (s : State) : (emit e s).dh = s.dh := rfl
@[simp] theorem emit_sh (e : Event) (s : State) : (emit e s).sh = s.sh := rfl
@[simp] theorem emit_rxpend (e : Event) (s : State) : (emit e s).rxpend = s.rxpend := rfl
@[simp] theorem emit_shadow (e : Event) (s : State) : (emit e s).shadow = s.shadow := rfl
@[simp] theorem emit_ubuf (e : Event) (s : State) : (emit e s).ubuf = s.ubuf := rfl
@[simp] theorem emit_ucnt (e : Event) (s : State) : (emit e s).ucnt = s.ucnt := rfl
@[simp] theorem emit_urHave (e : Event) (s : State) : (emit e s).urHave = s.urHave := rfl
@[simp] theorem emit_urIdx (e : Event) (s : State) : (emit e s).urIdx = s.urIdx := rfl
@[simp] theorem emit_ldPending (e : Event) (s : State) : (emit e s).ldPending = s.ldPending := rfl
@[simp] theorem emit_ldMask (e : Event) (s : State) : (emit e s).ldMask = s.ldMask := rfl
@[simp] theorem emit_ldIdx (e : Event) (s : State) : (emit e s).ldIdx = s.ldIdx := rfl
@[simp] theorem emit_cur (e : Event) (s : State) : (emit e s).cur = s.cur := rfl
@[simp] theorem emit_col (e : Event) (s : State) : (emit e s).col = s.col := rfl
@[simp] theorem emit_dcur (e : Event) (s : State) : (emit e s).dcur = s.dcur := rfl
@[simp] theorem emit_bufAddr (e : Event) (s : State) : (emit e s).bufAddr = s.bufAddr := rfl
@[simp] theorem emit_dmaDevAddr (e : Event) (s : State) : (emit e s).dmaDevAddr = s.dmaDevAddr := rfl
@[simp] theorem emit_dmaCount (e : Event) (s : State) : (emit e s).dmaCount = s.dmaCount := rfl
@[simp] theorem emit_rectStart (e : Event) (s : State) : (emit e s).rectStart = s.rectStart := rfl
@[simp] theorem emit_rectSize (e : Event) (s : State) : (emit e s).rectSize = s.rectSize := rfl
@[simp] theorem emit_rectInc (e : Event) (s : State) : (emit e s).rectInc = s.rectInc := rfl
@[simp] theorem emit_fillValue (e : Event) (s : State) : (emit e s).fillValue = s.fillValue := rfl
@[simp] theorem emit_fillCount (e : Event) (s : State) : (emit e s).fillCount = s.fillCount := rfl
@[simp] theorem emit_copyFrom (e : Event) (s : State) : (emit e s).copyFrom = s.copyFrom := rfl
@[simp] theorem emit_copyCount (e : Event) (s : State) : (emit e s).copyCount = s.copyCount := rfl
@[simp] theorem emit_cfg (e : Event) (s : State) : (emit e s).cfg = s.cfg := rfl
@[simp] theorem emit_events (e : Event) (s : State) : (emit e s).plat.events = s.plat.events ++ [e] := rfl
@[simp] theorem emit_rxq (e : Event) (s : State) : (emit e s).plat.rxq = s.plat.rxq := rfl

/-! ### memRead_snd -/

@[simp] theorem memRead_snd_fstate (a : HostAddr) (s : State) : ((memRead a s).2).fstate = s.fstate := rfl
@[simp] theorem memRead_snd_cmd (a : HostAddr) (s : State) : ((memRead a s).2).cmd = s.cmd := rfl
@[simp] theorem memRead_snd_dh (a : HostAddr) (s : State) : ((memRead a s).2).dh = s.dh := rfl
@[simp] theorem memRead_snd_sh (a : HostAddr) (s : State) : ((memRead a s).2).sh = s.sh := rfl
@[simp] theorem memRead_snd_rxpend (a : HostAddr) (s : State) : ((memRead a s).2).rxpend = s.rxpend := rfl
@[simp] theorem memRead_snd_shadow (a : HostAddr) (s : State) : ((memRead a s).2).shadow = s.shadow := rfl
@[simp] theorem memRead_snd_ubuf (a : HostAddr) (s : State) : ((memRead a s).2).ubuf = s.ubuf := rfl
@[simp] theorem memRead_snd_ucnt (a : HostAddr) (s : State) : ((memRead a s).2).ucnt = s.ucnt := rfl
@[simp] theorem memRead_snd_urHave (a : HostAddr) (s : State) : ((memRead a s).2).urHave = s.urHave := rfl
@[simp] theorem memRead_snd_urIdx (a : HostAddr) (s : State) : ((memRead a s).2).urIdx = s.urIdx := rfl
@[simp] theorem memRead_snd_ldPending (a : HostAddr) (s : State) : ((memRead a s).2).ldPending = s.ldPending := rfl
@[simp] theorem memRead_snd_ldMask (a : HostAddr) (s : State) : ((memRead a s).2).ldMask = s.ldMask := rfl
@[simp] theorem memRead_snd_ldIdx (a : HostAddr) (s : State) : ((memRead a s).2).ldIdx = s.ldIdx := rfl
@[simp] theorem memRead_snd_cur (a : HostAddr) (s : State) : ((memRead a s).2).cur = s.cur := rfl
@[simp] theorem memRead_snd_col (a : HostAddr) (s : State) : ((memRead a s).2).col = s.col := rfl
@[simp] theorem memRead_snd_dcur (a : HostAddr) (s : State) : ((memRead a s).2).dcur = s.dcur := rfl
@[simp] theorem memRead_snd_bufAddr (a : HostAddr) (s : State) : ((memRead a s).2).bufAddr = s.bufAddr := rfl
@[simp] theorem memRead_snd_dmaDevAddr (a : HostAddr) (s : State) : ((memRead a s).2).dmaDevAddr = s.dmaDevAddr := rfl
@[simp] theorem memRead_snd_dmaCount (a : HostAddr) (s : State) : ((memRead a s).2).dmaCount = s.dmaCount := rfl
@[simp] theorem memRead_snd_rectStart (a : HostAddr) (s : State) : ((memRead a s).2).rectStart = s.rectStart := rfl
@[simp] theorem memRead_snd_rectSize (a : HostAddr) (s : State) : ((memRead a s).2).rectSize = s.rectSize := rfl
@[simp] theorem memRead_snd_rectInc (a : HostAddr) (s : State) : ((memRead a s).2).rectInc = s.rectInc := rfl
@[simp] theorem memRead_snd_fillValue (a : HostAddr) (s : State) : ((memRead a s).2).fillValue = s.fillValue := rfl
@[simp] theorem memRead_snd_fillCount (a : HostAddr) (s : State) : ((memRead a s).2).fillCount = s.fillCount := rfl
@[simp] theorem memRead_snd_copyFrom (a : HostAddr) (s : State) : ((memRead a s).2).copyFrom = s.copyFrom := rfl
@[simp] theorem memRead_snd_copyCount (a : HostAddr) (s : State) : ((memRead a s).2).copyCount = s.copyCount := rfl
@[simp] theorem memRead_snd_cfg (a : HostAddr) (s : State) : ((memRead a s).2).cfg = s.cfg := rfl

/-! ### memWrite -/

@[simp] theorem memWrite_fstate (a : HostAddr) (v : Byte) (s : State) : (memWrite a v s).fstate = s.fstate := rfl
@[simp] theorem memWrite_cmd (a : HostAddr) (v : Byte) (s : State) : (memWrite a v s).cmd = s.cmd := rfl
@[simp] theorem memWrite_dh (a : HostAddr) (v : Byte) (s : State) : (memWrite a v s).dh = s.dh := rfl
@[simp] theorem memWrite_sh (a : HostAddr) (v : Byte) (s : State) : (memWrite a v s).sh = s.sh := rfl
@[simp] theorem memWrite_rxpend (a : HostAddr) (v : Byte) (s : State) : (memWrite a v s).rxpend = s.rxpend := rfl
@[simp] theorem memWrite_shadow (a : HostAddr) (v : Byte) (s : State) : (memWrite a v s).shadow = s.shadow := rfl
@[simp] theorem memWrite_ubuf (a : HostAddr) (v : Byte) (s : State) : (memWrite a v s).ubuf = s.ubuf := rfl
@[simp] theorem memWrite_ucnt (a : HostAddr) (v : Byte) (s : State) : (memWrite a v s).ucnt = s.ucnt := rfl
@[simp] theorem memWrite_urHave (a : HostAddr) (v : Byte) (s : State) : (memWrite a v s).urHave = s.urHave := rfl
@[simp] theorem memWrite_urIdx (a : HostAddr) (v : Byte) (s : State) : (memWrite a v s).urIdx = s.urIdx := rfl
@[simp] theorem memWrite_ldPending (a : HostAddr) (v : Byte) (s : State) : (memWrite a v s).ldPending = s.ldPending := rfl
@[simp] theorem memWrite_ldMask (a : HostAddr) (v : Byte) (s : State) : (memWrite a v s).ldMask = s.ldMask := rfl
@[simp] theorem memWrite_ldIdx (a : HostAddr) (v : Byte) (s : State) : (memWrite a v s).ldIdx = s.ldIdx := rfl
@[simp] theorem memWrite_cur (a : HostAddr) (v : Byte) (s : State) : (memWrite a v s).cur = s.cur := rfl
@[simp] theorem memWrite_col (a : HostAddr) (v : Byte) (s : State) : (memWrite a v s).col = s.col := rfl
@[simp] theorem memWrite_dcur (a : HostAddr) (v : Byte) (s : State) : (memWrite a v s).dcur = s.dcur := rfl
@[simp] theorem memWrite_bufAddr (a : HostAddr) (v : Byte) (s : State) : (memWrite a v s).bufAddr = s.bufAddr := rfl
@[simp] theorem memWrite_dmaDevAddr (a : HostAddr) (v : Byte) (s : State) : (memWrite a v s).dmaDevAddr = s.dmaDevAddr := rfl
@[simp] theorem memWrite_dmaCount (a : HostAddr) (v : Byte) (s : State) : (memWrite a v s).dmaCount = s.dmaCount := rfl
@[simp] theorem memWrite_rectStart (a : HostAddr) (v : Byte) (s : State) : (memWrite a v s).rectStart = s.rectStart := rfl
@[simp] theorem memWrite_rectSize (a : HostAddr) (v : Byte) (s : State) : (memWrite a v s).rectSize = s.rectSize := rfl
@[simp] theorem memWrite_rectInc (a : HostAddr) (v : Byte) (s : State) : (memWrite a v s).rectInc = s.rectInc := rfl
@[simp] theorem memWrite_fillValue (a : HostAddr) (v : Byte) (s : State) : (memWrite a v s).fillValue = s.fillValue := rfl
@[simp] theorem memWrite_fillCount (a : HostAddr) (v : Byte) (s : State) : (memWrite a v s).fillCount = s.fillCount := rfl
@[simp] theorem memWrite_copyFrom (a : HostAddr) (v : Byte) (s : State) : (memWrite a v s).copyFrom = s.copyFrom := rfl
@[simp] theorem memWrite_copyCount (a : HostAddr) (v : Byte) (s : State) : (memWrite a v s).copyCount = s.copyCount := rfl
@[simp] theorem memWrite_cfg (a : HostAddr) (v : Byte) (s : State) : (memWrite a v s).cfg = s.cfg := rfl

/-! ### chipWrite -/

@[simp] theorem chipWrite_fstate (c : Chip) (o : Offset) (v : Byte) (s : State) : (chipWrite c o v s).fstate = s.fstate := rfl
@[simp] theorem chipWrite_cmd (c : Chip) (o : Offset) (v : Byte) (s : State) : (chipWrite c o v s).cmd = s.cmd := rfl
@[simp] theorem chipWrite_dh (c : Chip) (o : Offset) (v : Byte) (s : State) : (chipWrite c o v s).dh = s.dh := rfl
@[simp] theorem chipWrite_sh (c : Chip) (o : Offset) (v : Byte) (s : State) : (chipWrite c o v s).sh = s.sh := rfl
@[simp] theorem chipWrite_rxpend (c : Chip) (o : Offset) (v : Byte) (s : State) : (chipWrite c o v s).rxpend = s.rxpend := rfl
@[simp] theorem chipWrite_shadow (c : Chip) (o : Offset) (v : Byte) (s : State) : (chipWrite c o v s).shadow = s.shadow := rfl
@[simp] theorem chipWrite_ubuf (c : Chip) (o : Offset) (v : Byte) (s : State) : (chipWrite c o v s).ubuf = s.ubuf := rfl
@[simp] theorem chipWrite_ucnt (c : Chip) (o : Offset) (v : Byte) (s : State) : (chipWrite c o v s).ucnt = s.ucnt := rfl
@[simp] theorem chipWrite_urHave (c : Chip) (o : Offset) (v : Byte) (s : State) : (chipWrite c o v s).urHave = s.urHave := rfl
@[simp] theorem chipWrite_urIdx (c : Chip) (o : Offset) (v : Byte) (s : State) : (chipWrite c o v s).urIdx = s.urIdx := rfl
@[simp] theorem chipWrite_ldPending (c : Chip) (o : Offset) (v : Byte) (s : State) : (chipWrite c o v s).ldPending = s.ldPending := rfl
@[simp] theorem chipWrite_ldMask (c : Chip) (o : Offset) (v : Byte) (s : State) : (chipWrite c o v s).ldMask = s.ldMask := rfl
@[simp] theorem chipWrite_ldIdx (c : Chip) (o : Offset) (v : Byte) (s : State) : (chipWrite c o v s).ldIdx = s.ldIdx := rfl
@[simp] theorem chipWrite_cur (c : Chip) (o : Offset) (v : Byte) (s : State) : (chipWrite c o v s).cur = s.cur := rfl
@[simp] theorem chipWrite_col (c : Chip) (o : Offset) (v : Byte) (s : State) : (chipWrite c o v s).col = s.col := rfl
@[simp] theorem chipWrite_dcur (c : Chip) (o : Offset) (v : Byte) (s : State) : (chipWrite c o v s).dcur = s.dcur := rfl
@[simp] theorem chipWrite_bufAddr (c : Chip) (o : Offset) (v : Byte) (s : State) : (chipWrite c o v s).bufAddr = s.bufAddr := rfl
@[simp] theorem chipWrite_dmaDevAddr (c : Chip) (o : Offset) (v : Byte) (s : State) : (chipWrite c o v s).dmaDevAddr = s.dmaDevAddr := rfl
@[simp] theorem chipWrite_dmaCount (c : Chip) (o : Offset) (v : Byte) (s : State) : (chipWrite c o v s).dmaCount = s.dmaCount := rfl
@[simp] theorem chipWrite_rectStart (c : Chip) (o : Offset) (v : Byte) (s : State) : (chipWrite c o v s).rectStart = s.rectStart := rfl
@[simp] theorem chipWrite_rectSize (c : Chip) (o : Offset) (v : Byte) (s : State) : (chipWrite c o v s).rectSize = s.rectSize := rfl
@[simp] theorem chipWrite_rectInc (c : Chip) (o : Offset) (v : Byte) (s : State) : (chipWrite c o v s).rectInc = s.rectInc := rfl
@[simp] theorem chipWrite_fillValue (c : Chip) (o : Offset) (v : Byte) (s : State) : (chipWrite c o v s).fillValue = s.fillValue := rfl
@[simp] theorem chipWrite_fillCount (c : Chip) (o : Offset) (v : Byte) (s : State) : (chipWrite c o v s).fillCount = s.fillCount := rfl
@[simp] theorem chipWrite_copyFrom (c : Chip) (o : Offset) (v : Byte) (s : State) : (chipWrite c o v s).copyFrom = s.copyFrom := rfl
@[simp] theorem chipWrite_copyCount (c : Chip) (o : Offset) (v : Byte) (s : State) : (chipWrite c o v s).copyCount = s.copyCount := rfl
@[simp] theorem chipWrite_cfg (c : Chip) (o : Offset) (v : Byte) (s : State) : (chipWrite c o v s).cfg = s.cfg := rfl

/-! ### dmaXfer -/

@[simp] theorem dmaXfer_fstate (dir : DmaDir) (n : Byte) (h : HostAddr) (d : DevAddr) (s : State) : (dmaXfer dir n h d s).fstate = s.fstate := rfl
@[simp] theorem dmaXfer_cmd (dir : DmaDir) (n : Byte) (h : HostAddr) (d : DevAddr) (s : State) : (dmaXfer dir n h d s).cmd = s.cmd := rfl
@[simp] theorem dmaXfer_dh (dir : DmaDir) (n : Byte) (h : HostAddr) (d : DevAddr) (s : State) : (dmaXfer dir n h d s).dh = s.dh := rfl
@[simp] theorem dmaXfer_sh (dir : DmaDir) (n : Byte) (h : HostAddr) (d : DevAddr) (s : State) : (dmaXfer dir n h d s).sh = s.sh := rfl
@[simp] theorem dmaXfer_rxpend (dir : DmaDir) (n : Byte) (h : HostAddr) (d : DevAddr) (s : State) : (dmaXfer dir n h d s).rxpend = s.rxpend := rfl
@[simp] theorem dmaXfer_shadow (dir : DmaDir) (n : Byte) (h : HostAddr) (d : DevAddr) (s : State) : (dmaXfer dir n h d s).shadow = s.shadow := rfl
@[simp] theorem dmaXfer_ubuf (dir : DmaDir) (n : Byte) (h : HostAddr) (d : DevAddr) (s : State) : (dmaXfer dir n h d s).ubuf = s.ubuf := rfl
@[simp] theorem dmaXfer_ucnt (dir : DmaDir) (n : Byte) (h : HostAddr) (d : DevAddr) (s : State) : (dmaXfer dir n h d s).ucnt = s.ucnt := rfl
@[simp] theorem dmaXfer_urHave (dir : DmaDir) (n : Byte) (h : HostAddr) (d : DevAddr) (s : State) : (dmaXfer dir n h d s).urHave = s.urHave := rfl
@[simp] theorem dmaXfer_urIdx (dir : DmaDir) (n : Byte) (h : HostAddr) (d : DevAddr) (s : State) : (dmaXfer dir n h d s).urIdx = s.urIdx := rfl
@[simp] theorem dmaXfer_ldPending (dir : DmaDir) (n : Byte) (h : HostAddr) (d : DevAddr) (s : State) : (dmaXfer dir n h d s).ldPending = s.ldPending := rfl
@[simp] theorem dmaXfer_ldMask (dir : DmaDir) (n : Byte) (h : HostAddr) (d : DevAddr) (s : State) : (dmaXfer dir n h d s).ldMask = s.ldMask := rfl
@[simp] theorem dmaXfer_ldIdx (dir : DmaDir) (n : Byte) (h : HostAddr) (d : DevAddr) (s : State) : (dmaXfer dir n h d s).ldIdx = s.ldIdx := rfl
@[simp] theorem dmaXfer_cur (dir : DmaDir) (n : Byte) (h : HostAddr) (d : DevAddr) (s : State) : (dmaXfer dir n h d s).cur = s.cur := rfl
@[simp] theorem dmaXfer_col (dir : DmaDir) (n : Byte) (h : HostAddr) (d : DevAddr) (s : State) : (dmaXfer dir n h d s).col = s.col := rfl
@[simp] theorem dmaXfer_dcur (dir : DmaDir) (n : Byte) (h : HostAddr) (d : DevAddr) (s : State) : (dmaXfer dir n h d s).dcur = s.dcur := rfl
@[simp] theorem dmaXfer_bufAddr (dir : DmaDir) (n : Byte) (h : HostAddr) (d : DevAddr) (s : State) : (dmaXfer dir n h d s).bufAddr = s.bufAddr := rfl
@[simp] theorem dmaXfer_dmaDevAddr (dir : DmaDir) (n : Byte) (h : HostAddr) (d : DevAddr) (s : State) : (dmaXfer dir n h d s).dmaDevAddr = s.dmaDevAddr := rfl
@[simp] theorem dmaXfer_dmaCount (dir : DmaDir) (n : Byte) (h : HostAddr) (d : DevAddr) (s : State) : (dmaXfer dir n h d s).dmaCount = s.dmaCount := rfl
@[simp] theorem dmaXfer_rectStart (dir : DmaDir) (n : Byte) (h : HostAddr) (d : DevAddr) (s : State) : (dmaXfer dir n h d s).rectStart = s.rectStart := rfl
@[simp] theorem dmaXfer_rectSize (dir : DmaDir) (n : Byte) (h : HostAddr) (d : DevAddr) (s : State) : (dmaXfer dir n h d s).rectSize = s.rectSize := rfl
@[simp] theorem dmaXfer_rectInc (dir : DmaDir) (n : Byte) (h : HostAddr) (d : DevAddr) (s : State) : (dmaXfer dir n h d s).rectInc = s.rectInc := rfl
@[simp] theorem dmaXfer_fillValue (dir : DmaDir) (n : Byte) (h : HostAddr) (d : DevAddr) (s : State) : (dmaXfer dir n h d s).fillValue = s.fillValue := rfl
@[simp] theorem dmaXfer_fillCount (dir : DmaDir) (n : Byte) (h : HostAddr) (d : DevAddr) (s : State) : (dmaXfer dir n h d s).fillCount = s.fillCount := rfl
@[simp] theorem dmaXfer_copyFrom (dir : DmaDir) (n : Byte) (h : HostAddr) (d : DevAddr) (s : State) : (dmaXfer dir n h d s).copyFrom = s.copyFrom := rfl
@[simp] theorem dmaXfer_copyCount (dir : DmaDir) (n : Byte) (h : HostAddr) (d : DevAddr) (s : State) : (dmaXfer dir n h d s).copyCount = s.copyCount := rfl
@[simp] theorem dmaXfer_cfg (dir : DmaDir) (n : Byte) (h : HostAddr) (d : DevAddr) (s : State) : (dmaXfer dir n h d s).cfg = s.cfg := rfl

/-! ### execHost -/

@[simp] theorem execHost_fstate (a : HostAddr) (s : State) : (execHost a s).fstate = s.fstate := rfl
@[simp] theorem execHost_cmd (a : HostAddr) (s : State) : (execHost a s).cmd = s.cmd := rfl
@[simp] theorem execHost_dh (a : HostAddr) (s : State) : (execHost a s).dh = s.dh := rfl
@[simp] theorem execHost_sh (a : HostAddr) (s : State) : (execHost a s).sh = s.sh := rfl
@[simp] theorem execHost_rxpend (a : HostAddr) (s : State) : (execHost a s).rxpend = s.rxpend := rfl
@[simp] theorem execHost_shadow (a : HostAddr) (s : State) : (execHost a s).shadow = s.shadow := rfl
@[simp] theorem execHost_ubuf (a : HostAddr) (s : State) : (execHost a s).ubuf = s.ubuf := rfl
@[simp] theorem execHost_ucnt (a : HostAddr) (s : State) : (execHost a s).ucnt = s.ucnt := rfl
@[simp] theorem execHost_urHave (a : HostAddr) (s : State) : (execHost a s).urHave = s.urHave := rfl
@[simp] theorem execHost_urIdx (a : HostAddr) (s : State) : (execHost a s).urIdx = s.urIdx := rfl
@[simp] theorem execHost_ldPending (a : HostAddr) (s : State) : (execHost a s).ldPending = s.ldPending := rfl
@[simp] theorem execHost_ldMask (a : HostAddr) (s : State) : (execHost a s).ldMask = s.ldMask := rfl
@[simp] theorem execHost_ldIdx (a : HostAddr) (s : State) : (execHost a s).ldIdx = s.ldIdx := rfl
@[simp] theorem execHost_cur (a : HostAddr) (s : State) : (execHost a s).cur = s.cur := rfl
@[simp] theorem execHost_col (a : HostAddr) (s : State) : (execHost a s).col = s.col := rfl
@[simp] theorem execHost_dcur (a : HostAddr) (s : State) : (execHost a s).dcur = s.dcur := rfl
@[simp] theorem execHost_bufAddr (a : HostAddr) (s : State) : (execHost a s).bufAddr = s.bufAddr := rfl
@[simp] theorem execHost_dmaDevAddr (a : HostAddr) (s : State) : (execHost a s).dmaDevAddr = s.dmaDevAddr := rfl
@[simp] theorem execHost_dmaCount (a : HostAddr) (s : State) : (execHost a s).dmaCount = s.dmaCount := rfl
@[simp] theorem execHost_rectStart (a : HostAddr) (s : State) : (execHost a s).rectStart = s.rectStart := rfl
@[simp] theorem execHost_rectSize (a : HostAddr) (s : State) : (execHost a s).rectSize = s.rectSize := rfl
@[simp] theorem execHost_rectInc (a : HostAddr) (s : State) : (execHost a s).rectInc = s.rectInc := rfl
@[simp] theorem execHost_fillValue (a : HostAddr) (s : State) : (execHost a s).fillValue = s.fillValue := rfl
@[simp] theorem execHost_fillCount (a : HostAddr) (s : State) : (execHost a s).fillCount = s.fillCount := rfl
@[simp] theorem execHost_copyFrom (a : HostAddr) (s : State) : (execHost a s).copyFrom = s.copyFrom := rfl
@[simp] theorem execHost_copyCount (a : HostAddr) (s : State) : (execHost a s).copyCount = s.copyCount := rfl
@[simp] theorem execHost_cfg (a : HostAddr) (s : State) : (execHost a s).cfg = s.cfg := rfl

/-! ### install -/

@[simp] theorem install_fstate (dh : DataHandler) (sh : StopHandler) (s : State) : (install dh sh s).fstate = s.fstate := rfl
@[simp] theorem install_cmd (dh : DataHandler) (sh : StopHandler) (s : State) : (install dh sh s).cmd = s.cmd := rfl
@[simp] theorem install_rxpend (dh : DataHandler) (sh : StopHandler) (s : State) : (install dh sh s).rxpend = s.rxpend := rfl
@[simp] theorem install_shadow (dh : DataHandler) (sh : StopHandler) (s : State) : (install dh sh s).shadow = s.shadow := rfl
@[simp] theorem install_ubuf (dh : DataHandler) (sh : StopHandler) (s : State) : (install dh sh s).ubuf = s.ubuf := rfl
@[simp] theorem install_ucnt (dh : DataHandler) (sh : StopHandler) (s : State) : (install dh sh s).ucnt = s.ucnt := rfl
@[simp] theorem install_urHave (dh : DataHandler) (sh : StopHandler) (s : State) : (install dh sh s).urHave = s.urHave := rfl
@[simp] theorem install_urIdx (dh : DataHandler) (sh : StopHandler) (s : State) : (install dh sh s).urIdx = s.urIdx := rfl
@[simp] theorem install_ldPending (dh : DataHandler) (sh : StopHandler) (s : State) : (install dh sh s).ldPending = s.ldPending := rfl
@[simp] theorem install_ldMask (dh : DataHandler) (sh : StopHandler) (s : State) : (install dh sh s).ldMask = s.ldMask := rfl
@[simp] theorem install_ldIdx (dh : DataHandler) (sh : StopHandler) (s : State) : (install dh sh s).ldIdx = s.ldIdx := rfl
@[simp] theorem install_cur (dh : DataHandler) (sh : StopHandler) (s : State) : (install dh sh s).cur = s.cur := rfl
@[simp] theorem install_col (dh : DataHandler) (sh : StopHandler) (s : State) : (install dh sh s).col = s.col := rfl
@[simp] theorem install_dcur (dh : DataHandler) (sh : StopHandler) (s : State) : (install dh sh s).dcur = s.dcur := rfl
@[simp] theorem install_bufAddr (dh : DataHandler) (sh : StopHandler) (s : State) : (install dh sh s).bufAddr = s.bufAddr := rfl
@[simp] theorem install_dmaDevAddr (dh : DataHandler) (sh : StopHandler) (s : State) : (install dh sh s).dmaDevAddr = s.dmaDevAddr := rfl
@[simp] theorem install_dmaCount (dh : DataHandler) (sh : StopHandler) (s : State) : (install dh sh s).dmaCount = s.dmaCount := rfl
@[simp] theorem install_rectStart (dh : DataHandler) (sh : StopHandler) (s : State) : (install dh sh s).rectStart = s.rectStart := rfl
@[simp] theorem install_rectSize (dh : DataHandler) (sh : StopHandler) (s : State) : (install dh sh s).rectSize = s.rectSize := rfl
@[simp] theorem install_rectInc (dh : DataHandler) (sh : StopHandler) (s : State) : (install dh sh s).rectInc = s.rectInc := rfl
@[simp] theorem install_fillValue (dh : DataHandler) (sh : StopHandler) (s : State) : (install dh sh s).fillValue = s.fillValue := rfl
@[simp] theorem install_fillCount (dh : DataHandler) (sh : StopHandler) (s : State) : (install dh sh s).fillCount = s.fillCount := rfl
@[simp] theorem install_copyFrom (dh : DataHandler) (sh : StopHandler) (s : State) : (install dh sh s).copyFrom = s.copyFrom := rfl
@[simp] theorem install_copyCount (dh : DataHandler) (sh : StopHandler) (s : State) : (install dh sh s).copyCount = s.copyCount := rfl
@[simp] theorem install_cfg (dh : DataHandler) (sh : StopHandler) (s : State) : (install dh sh s).cfg = s.cfg := rfl
@[simp] theorem install_dh (dh : DataHandler) (sh : StopHandler) (s : State) : (install dh sh s).dh = dh := rfl
@[simp] theorem install_sh (dh : DataHandler) (sh : StopHandler) (s : State) : (install dh sh s).sh = sh := rfl
@[simp] theorem install_plat (dh : DataHandler) (sh : StopHandler) (s : State) : (install dh sh s).plat = s.plat := rfl

/-! ### cursorInit -/

@[simp] theorem cursorInit_fstate (s : State) : (cursorInit s).fstate = s.fstate := rfl
@[simp] theorem cursorInit_cmd (s : State) : (cursorInit s).cmd = s.cmd := rfl
@[simp] theorem cursorInit_dh (s : State) : (cursorInit s).dh = s.dh := rfl
@[simp] theorem cursorInit_sh (s : State) : (cursorInit s).sh = s.sh := rfl
@[simp] theorem cursorInit_rxpend (s : State) : (cursorInit s).rxpend = s.rxpend := rfl
@[simp] theorem cursorInit_shadow (s : State) : (cursorInit s).shadow = s.shadow := rfl
@[simp] theorem cursorInit_ubuf (s : State) : (cursorInit s).ubuf = s.ubuf := rfl
@[simp] theorem cursorInit_ucnt (s : State) : (cursorInit s).ucnt = s.ucnt := rfl
@[simp] theorem cursorInit_urHave (s : State) : (cursorInit s).urHave = s.urHave := rfl
@[simp] theorem cursorInit_urIdx (s : State) : (cursorInit s).urIdx = s.urIdx := rfl
@[simp] theorem cursorInit_ldPending (s : State) : (cursorInit s).ldPending = s.ldPending := rfl
@[simp] theorem cursorInit_ldMask (s : State) : (cursorInit s).ldMask = s.ldMask := rfl
@[simp] theorem cursorInit_ldIdx (s : State) : (cursorInit s).ldIdx = s.ldIdx := rfl
@[simp] theorem cursorInit_dcur (s : State) : (cursorInit s).dcur = s.dcur := rfl
@[simp] theorem cursorInit_bufAddr (s : State) : (cursorInit s).bufAddr = s.bufAddr := rfl
@[simp] theorem cursorInit_dmaDevAddr (s : State) : (cursorInit s).dmaDevAddr = s.dmaDevAddr := rfl
@[simp] theorem cursorInit_dmaCount (s : State) : (cursorInit s).dmaCount = s.dmaCount := rfl
@[simp] theorem cursorInit_rectStart (s : State) : (cursorInit s).rectStart = s.rectStart := rfl
@[simp] theorem cursorInit_rectSize (s : State) : (cursorInit s).rectSize = s.rectSize := rfl
@[simp] theorem cursorInit_rectInc (s : State) : (cursorInit s).rectInc = s.rectInc := rfl
@[simp] theorem cursorInit_fillValue (s : State) : (cursorInit s).fillValue = s.fillValue := rfl
@[simp] theorem cursorInit_fillCount (s : State) : (cursorInit s).fillCount = s.fillCount := rfl
@[simp] theorem cursorInit_copyFrom (s : State) : (cursorInit s).copyFrom = s.copyFrom := rfl
@[simp] theorem cursorInit_copyCount (s : State) : (cursorInit s).copyCount = s.copyCount := rfl
@[simp] theorem cursorInit_cfg (s : State) : (cursorInit s).cfg = s.cfg := rfl
@[simp] theorem cursorInit_cur (s : State) : (cursorInit s).cur = s.bufAddr := rfl
@[simp] theorem cursorInit_col (s : State) : (cursorInit s).col = s.rectSize := rfl
@[simp] theorem cursorInit_plat (s : State) : (cursorInit s).plat = s.plat := rfl

/-! ### loaderReset -/

@[simp] theorem loaderReset_fstate (s : State) : (loaderReset s).fstate = s.fstate := rfl
@[simp] theorem loaderReset_cmd (s : State) : (loaderReset s).cmd = s.cmd := rfl
@[simp] theorem loaderReset_dh (s : State) : (loaderReset s).dh = s.dh := rfl
@[simp] theorem loaderReset_sh (s : State) : (loaderReset s).sh = s.sh := rfl
@[simp] theorem loaderReset_rxpend (s : State) : (loaderReset s).rxpend = s.rxpend := rfl
@[simp] theorem loaderReset_shadow (s : State) : (loaderReset s).shadow = s.shadow := rfl
@[simp] theorem loaderReset_ubuf (s : State) : (loaderReset s).ubuf = s.ubuf := rfl
@[simp] theorem loaderReset_ucnt (s : State) : (loaderReset s).ucnt = s.ucnt := rfl
@[simp] theorem loaderReset_urHave (s : State) : (loaderReset s).urHave = s.urHave := rfl
@[simp] theorem loaderReset_urIdx (s : State) : (loaderReset s).urIdx = s.urIdx := rfl
@[simp] theorem loaderReset_ldMask (s : State) : (loaderReset s).ldMask = s.ldMask := rfl
@[simp] theorem loaderReset_cur (s : State) : (loaderReset s).cur = s.cur := rfl
@[simp] theorem loaderReset_col (s : State) : (loaderReset s).col = s.col := rfl
@[simp] theorem loaderReset_dcur (s : State) : (loaderReset s).dcur = s.dcur := rfl
@[simp] theorem loaderReset_bufAddr (s : State) : (loaderReset s).bufAddr = s.bufAddr := rfl
@[simp] theorem loaderReset_dmaDevAddr (s : State) : (loaderReset s).dmaDevAddr = s.dmaDevAddr := rfl
@[simp] theorem loaderReset_dmaCount (s : State) : (loaderReset s).dmaCount = s.dmaCount := rfl
@[simp] theorem loaderReset_rectStart (s : State) : (loaderReset s).rectStart = s.rectStart := rfl
@[simp] theorem loaderReset_rectSize (s : State) : (loaderReset s).rectSize = s.rectSize := rfl
@[simp] theorem loaderReset_rectInc (s : State) : (loaderReset s).rectInc = s.rectInc := rfl
@[simp] theorem loaderReset_fillValue (s : State) : (loaderReset s).fillValue = s.fillValue := rfl
@[simp] theorem loaderReset_fillCount (s : State) : (loaderReset s).fillCount = s.fillCount := rfl
@[simp] theorem loaderReset_copyFrom (s : State) : (loaderReset s).copyFrom = s.copyFrom := rfl
@[simp] theorem loaderReset_copyCount (s : State) : (loaderReset s).copyCount = s.copyCount := rfl
@[simp] theorem loaderReset_cfg (s : State) : (loaderReset s).cfg = s.cfg := rfl
@[simp] theorem loaderReset_ldPending (s : State) : (loaderReset s).ldPending = 0 := rfl
@[simp] theorem loaderReset_ldIdx (s : State) : (loaderReset s).ldIdx = 0 := rfl
@[simp] theorem loaderReset_plat (s : State) : (loaderReset s).plat = s.plat := rfl

/-! ### setShadow -/

@[simp] theorem setShadow_fstate (c : Chip) (o : Offset) (v : Byte) (s : State) : (setShadow c o v s).fstate = s.fstate := rfl
@[simp] theorem setShadow_cmd (c : Chip) (o : Offset) (v : Byte) (s : State) : (setShadow c o v s).cmd = s.cmd := rfl
@[simp] theorem setShadow_dh (c : Chip) (o : Offset) (v : Byte) (s : State) : (setShadow c o v s).dh = s.dh := rfl
@[simp] theorem setShadow_sh (c : Chip) (o : Offset) (v : Byte) (s : State) : (setShadow c o v s).sh = s.sh := rfl
@[simp] theorem setShadow_rxpend (c : Chip) (o : Offset) (v : Byte) (s : State) : (setShadow c o v s).rxpend = s.rxpend := rfl
@[simp] theorem setShadow_ubuf (c : Chip) (o : Offset) (v : Byte) (s : State) : (setShadow c o v s).ubuf = s.ubuf := rfl
@[simp] theorem setShadow_ucnt (c : Chip) (o : Offset) (v : Byte) (s : State) : (setShadow c o v s).ucnt = s.ucnt := rfl
@[simp] theorem setShadow_urHave (c : Chip) (o : Offset) (v : Byte) (s : State) : (setShadow c o v s).urHave = s.urHave := rfl
@[simp] theorem setShadow_urIdx (c : Chip) (o : Offset) (v : Byte) (s : State) : (setShadow c o v s).urIdx = s.urIdx := rfl
@[simp] theorem setShadow_ldPending (c : Chip) (o : Offset) (v : Byte) (s : State) : (setShadow c o v s).ldPending = s.ldPending := rfl
@[simp] theorem setShadow_ldMask (c : Chip) (o : Offset) (v : Byte) (s : State) : (setShadow c o v s).ldMask = s.ldMask := rfl
@[simp] theorem setShadow_ldIdx (c : Chip) (o : Offset) (v : Byte) (s : State) : (setShadow c o v s).ldIdx = s.ldIdx := rfl
@[simp] theorem setShadow_cur (c : Chip) (o : Offset) (v : Byte) (s : State) : (setShadow c o v s).cur = s.cur := rfl
@[simp] theorem setShadow_col (c : Chip) (o : Offset) (v : Byte) (s : State) : (setShadow c o v s).col = s.col := rfl
@[simp] theorem setShadow_dcur (c : Chip) (o : Offset) (v : Byte) (s : State) : (setShadow c o v s).dcur = s.dcur := rfl
@[simp] theorem setShadow_bufAddr (c : Chip) (o : Offset) (v : Byte) (s : State) : (setShadow c o v s).bufAddr = s.bufAddr := rfl
@[simp] theorem setShadow_dmaDevAddr (c : Chip) (o : Offset) (v : Byte) (s : State) : (setShadow c o v s).dmaDevAddr = s.dmaDevAddr := rfl
@[simp] theorem setShadow_dmaCount (c : Chip) (o : Offset) (v : Byte) (s : State) : (setShadow c o v s).dmaCount = s.dmaCount := rfl
@[simp] theorem setShadow_rectStart (c : Chip) (o : Offset) (v : Byte) (s : State) : (setShadow c o v s).rectStart = s.rectStart := rfl
@[simp] theorem setShadow_rectSize (c : Chip) (o : Offset) (v : Byte) (s : State) : (setShadow c o v s).rectSize = s.rectSize := rfl
@[simp] theorem setShadow_rectInc (c : Chip) (o : Offset) (v : Byte) (s : State) : (setShadow c o v s).rectInc = s.rectInc := rfl
@[simp] theorem setShadow_fillValue (c : Chip) (o : Offset) (v : Byte) (s : State) : (setShadow c o v s).fillValue = s.fillValue := rfl
@[simp] theorem setShadow_fillCount (c : Chip) (o : Offset) (v : Byte) (s : State) : (setShadow c o v s).fillCount = s.fillCount := rfl
@[simp] theorem setShadow_copyFrom (c : Chip) (o : Offset) (v : Byte) (s : State) : (setShadow c o v s).copyFrom = s.copyFrom := rfl
@[simp] theorem setShadow_copyCount (c : Chip) (o : Offset) (v : Byte) (s : State) : (setShadow c o v s).copyCount = s.copyCount := rfl
@[simp] theorem setShadow_cfg (c : Chip) (o : Offset) (v : Byte) (s : State) : (setShadow c o v s).cfg = s.cfg := rfl
@[simp] theorem setShadow_plat (c : Chip) (o : Offset) (v : Byte) (s : State) : (setShadow c o v s).plat = s.plat := rfl

end Sys2Proof.Machine
end

