-- ==== Sys2Proof/Laws/Memory.lean ====
section
/-! SUPPORT. Memory: read after write, and that every memory operation keeps the form of Memory.wf. -/

namespace Sys2Proof.Machine

@[simp] theorem Memory.get_set_same (m : Memory) (a : Nat) (v : Byte) :
    Memory.get? (Memory.set m a v) a = some v := by
  induction m with
  | nil => simp [Memory.set, Memory.get?]
  | cons p m ih =>
    obtain ⟨b, w⟩ := p
    unfold Memory.set
    split
    · simp [Memory.get?]
    · split
      · simp [Memory.get?]
      · simp [Memory.get?, *]

theorem Memory.get_set_other (m : Memory) {a c : Nat} (v : Byte) (h : c ≠ a) :
    Memory.get? (Memory.set m a v) c = Memory.get? m c := by
  induction m with
  | nil => simp [Memory.set, Memory.get?, h]
  | cons p m ih =>
    obtain ⟨b, w⟩ := p
    unfold Memory.set
    split
    · simp [Memory.get?, h]
    · split
      · rename_i hab; subst hab; simp [Memory.get?, h]
      · simp [Memory.get?, ih]

theorem Memory.get_set (m : Memory) (a c : Nat) (v : Byte) :
    Memory.get? (Memory.set m a v) c = if c = a then some v else Memory.get? m c := by
  split
  · subst_vars; simp
  · exact Memory.get_set_other m v ‹_›

/-- What a written memory lists: the written cell, or an old one. -/
theorem Memory.mem_set {m : Memory} {a : Nat} {v : Byte} {p : Host.Cell} (h : p ∈ Memory.set m a v) :
    p = (a, v) ∨ p ∈ m := by
  induction m with
  | nil => simpa [Memory.set] using h
  | cons q m ih =>
    obtain ⟨b, w⟩ := q
    unfold Memory.set at h
    split at h
    · simpa using h
    · split at h
      · rcases List.mem_cons.1 h with h | h
        · exact .inl h
        · exact .inr (List.mem_cons_of_mem _ h)
      · rcases List.mem_cons.1 h with h | h
        · exact .inr (h ▸ List.mem_cons_self)
        · exact (ih h).imp id (List.mem_cons_of_mem _)

theorem Memory.wf_nil (n : Nat) : Memory.wf n [] := ⟨List.Pairwise.nil, by simp⟩

/-- A write inside the space keeps the form. -/
theorem Memory.wf_set {n a : Nat} {m : Memory} (v : Byte) (hm : Memory.wf n m) (ha : a < n) :
    Memory.wf n (Memory.set m a v) := by
  refine ⟨?_, fun p hp => ?_⟩
  · obtain ⟨hs, -⟩ := hm
    induction m with
    | nil => simp [Memory.set]
    | cons q m ih =>
      obtain ⟨b, w⟩ := q
      rw [List.pairwise_cons] at hs
      unfold Memory.set
      split
      · rename_i hab
        refine List.pairwise_cons.2 ⟨fun p hp => ?_, List.pairwise_cons.2 hs⟩
        rcases List.mem_cons.1 hp with rfl | hp
        · exact hab
        · exact lt_trans hab (hs.1 p hp)
      · split
        · rename_i _ hab
          subst hab
          exact List.pairwise_cons.2 ⟨hs.1, hs.2⟩
        · rename_i h1 h2
          refine List.pairwise_cons.2 ⟨fun p hp => ?_, ih hs.2⟩
          rcases Memory.mem_set hp with rfl | hp
          · simp only; omega
          · exact hs.1 p hp
  · rcases Memory.mem_set hp with rfl | hp
    · exact ha
    · exact hm.2 p hp

/-- The four memories of a platform keep their form. -/
structure Platform.memWf (p : Platform) : Prop where
  host : Memory.wf (2 ^ 16) p.hostMem
  dev : Memory.wf (2 ^ 24) p.devMem
  chip0 : Memory.wf 25 p.chip0
  chip1 : Memory.wf 25 p.chip1

theorem Platform.powerOn_memWf : Platform.powerOn.memWf :=
  ⟨Memory.wf_nil _, Memory.wf_nil _, Memory.wf_nil _, Memory.wf_nil _⟩

theorem Platform.memWf_hostWrite {p : Platform} (c : Config) (a : HostAddr) (v : Byte) (h : p.memWf) :
    (p.hostWrite c a v).memWf := by
  unfold Platform.hostWrite
  split
  · exact { h with host := Memory.wf_set v h.host a.isLt }
  · exact h

theorem Platform.memWf_hostRead {p : Platform} (c : Config) (a : HostAddr) (h : p.memWf) :
    (p.hostRead c a).2.memWf := by
  unfold Platform.hostRead
  split
  · exact h
  · exact { h with }

theorem Platform.memWf_devRead {p : Platform} (d : DevAddr) (h : p.memWf) : (p.devRead d).2.memWf := by
  unfold Platform.devRead
  split
  · exact { h with }
  · exact h

theorem Platform.memWf_devWrite {p : Platform} (d : DevAddr) (v : Byte) (h : p.memWf) :
    (p.devWrite d v).memWf := by
  unfold Platform.devWrite
  split
  · exact h
  · exact { h with dev := Memory.wf_set v h.dev d.isLt }

theorem Platform.memWf_chipSet {p : Platform} (c : Config) (chip : Chip) (o : Offset) (v : Byte) (h : p.memWf) :
    (p.chipSet c chip o v).memWf := by
  unfold Platform.chipSet
  split
  · split
    · exact { h with chip0 := Memory.wf_set v h.chip0 o.isLt }
    · exact { h with chip1 := Memory.wf_set v h.chip1 o.isLt }
  · exact h

theorem Platform.memWf_moveByte {p : Platform} (dir : DmaDir) (c : Config) (a : HostAddr) (d : DevAddr)
    (h : p.memWf) : (p.moveByte dir c a d).memWf := by
  cases dir with
  | stash => exact memWf_devWrite _ _ (memWf_hostRead _ _ h)
  | fetch => exact memWf_hostWrite _ _ _ (memWf_devRead _ h)

theorem Platform.memWf_moveBytes (dir : DmaDir) (c : Config) (n : Nat) (a : HostAddr) (d : DevAddr) {p : Platform}
    (h : p.memWf) : (Platform.moveBytes dir c n a d p).memWf := by
  induction n generalizing a d p with
  | zero => exact h
  | succ n ih => exact ih _ _ (memWf_moveByte dir c a d h)

theorem Platform.memWf_transfer {p : Platform} (dir : DmaDir) (c : Config) (a : HostAddr) (d : DevAddr)
    (h : p.memWf) : (Platform.transfer dir c a d p).memWf := by
  unfold Platform.transfer
  split
  · exact h
  · exact h
  · exact { memWf_moveBytes dir c _ a d h with }

theorem Platform.memWf_forget (p : Platform) : p.forget.memWf :=
  ⟨Memory.wf_nil _, Memory.wf_nil _, Memory.wf_nil _, Memory.wf_nil _⟩

theorem Platform.memWf_release (p : Platform) : p.release.memWf :=
  ⟨Memory.wf_nil _, Memory.wf_nil _, Memory.wf_nil _, Memory.wf_nil _⟩

theorem memWf_memRead {s : State} (a : HostAddr) (h : s.plat.memWf) : (memRead a s).2.plat.memWf :=
  Platform.memWf_hostRead (p := (emit (.memRead a) s).plat) _ _ { h with }

theorem memWf_memWrite {s : State} (a : HostAddr) (v : Byte) (h : s.plat.memWf) : (memWrite a v s).plat.memWf :=
  Platform.memWf_hostWrite (p := (emit (.memWrite a v) s).plat) _ _ _ { h with }

theorem memWf_chipWrite {s : State} (c : Chip) (o : Offset) (v : Byte) (h : s.plat.memWf) :
    (chipWrite c o v s).plat.memWf :=
  Platform.memWf_chipSet (p := (emit (.chipWrite c o v) s).plat) _ _ _ _ { h with }

theorem memWf_dmaXfer {s : State} (dir : DmaDir) (n : Byte) (a : HostAddr) (d : DevAddr) (h : s.plat.memWf) :
    (dmaXfer dir n a d s).plat.memWf :=
  Platform.memWf_transfer (p := { (emit (.dmaXfer dir n a d) s).plat with devLen := .holds n }) _ _ _ _ { h with }

theorem memWf_resetInput (s : State) : (resetInput s).plat.memWf := Platform.memWf_forget _

theorem memWf_execHost (s : State) (a : HostAddr) : (execHost a s).plat.memWf := Platform.memWf_release _

end Sys2Proof.Machine
end

