-- ==== Sys2Proof/Laws/Ops.lean ====
section
/-! SUPPORT. What each shared operation of Machine/Ops.lean can do, said once. -/

namespace Sys2Proof.Machine

/-! ### Sequencing -/

@[simp] theorem andThen_next (s : State) (f : State → Result) : andThen (.next s) f = f s := rfl
@[simp] theorem andThen_fault (e : Fault) (f : State → Result) : andThen (.fault e) f = .fault e := rfl
@[simp] theorem andThen_refused (e : Refusal) (f : State → Result) : andThen (.refused e) f = .refused e := rfl

@[simp] theorem andThen_next_right (r : Result) : andThen r .next = r := by cases r <;> rfl

theorem andThen_assoc (r : Result) (f g : State → Result) :
    andThen (andThen r f) g = andThen r fun s => andThen (f s) g := by cases r <;> rfl

/-- A sequence answers a next state exactly when both its parts do. -/
theorem andThen_eq_next {r : Result} {f : State → Result} {t : State} :
    andThen r f = .next t ↔ ∃ s, r = .next s ∧ f s = .next t := by
  cases r <;> simp [andThen]

/-! ### The platform -/

/-- All a write to host memory does. -/
theorem Platform.hostWrite_eq (p : Platform) (c : Config) (a : HostAddr) (v : Byte) :
    p.hostWrite c a v = { p with hostMem := (p.hostWrite c a v).hostMem } := by
  unfold Platform.hostWrite; split <;> rfl

theorem Platform.get_hostWrite (p : Platform) (c : Config) (a x : HostAddr) (v : Byte) :
    Memory.get? (p.hostWrite c a v).hostMem x.toNat =
      if p.keeps c a = true ∧ x = a then some v else Memory.get? p.hostMem x.toNat := by
  unfold Platform.hostWrite
  by_cases hk : p.keeps c a = true
  · simp [hk, Memory.get_set, BitVec.toNat_inj]
  · simp [hk]

/-- All a read of host memory does. -/
theorem Platform.hostRead_snd_eq (p : Platform) (c : Config) (a : HostAddr) :
    (p.hostRead c a).2 = { p with free := (p.hostRead c a).2.free } := by
  unfold Platform.hostRead; split <;> rfl

theorem Platform.hostRead_keeps {p : Platform} {c : Config} {a : HostAddr} (h : p.keeps c a = true) :
    p.hostRead c a = ((Memory.get? p.hostMem a.toNat).getD (Config.powerOnHost p.epoch a), p) := by
  simp [Platform.hostRead, h]

/-- All a read of device memory does. -/
theorem Platform.devRead_snd_eq (p : Platform) (d : DevAddr) :
    (p.devRead d).2 = { p with free := (p.devRead d).2.free } := by
  unfold Platform.devRead; split <;> rfl

/-- All a write to device memory does. -/
theorem Platform.devWrite_eq (p : Platform) (d : DevAddr) (v : Byte) :
    p.devWrite d v = { p with devMem := (p.devWrite d v).devMem } := by
  unfold Platform.devWrite; split <;> rfl

theorem Platform.get_devWrite (p : Platform) (d x : DevAddr) (v : Byte) :
    Memory.get? (p.devWrite d v).devMem x.toNat =
      if p.released = false ∧ x = d then some v else Memory.get? p.devMem x.toNat := by
  unfold Platform.devWrite
  by_cases hk : p.released = true
  · simp [hk]
  · simp [hk, Memory.get_set, BitVec.toNat_inj]

/-- All a write to a chip register does. -/
theorem Platform.chipSet_eq (p : Platform) (c : Config) (chip : Chip) (o : Offset) (v : Byte) :
    p.chipSet c chip o v =
      { p with chip0 := (p.chipSet c chip o v).chip0, chip1 := (p.chipSet c chip o v).chip1 } := by
  unfold Platform.chipSet; split
  · split <;> rfl
  · rfl

/-- There are two chips. -/
theorem Chip.eq_one : ∀ {c : Chip}, c ≠ 0 → c = 1 := by decide

theorem Platform.get_chipSet (p : Platform) (c : Config) (chip x : Chip) (o y : Offset) (v : Byte) :
    Memory.get? ((p.chipSet c chip o v).chip x) y.val =
      if p.keepsChip c chip = true ∧ x = chip ∧ y = o then some v else Memory.get? (p.chip x) y.val := by
  unfold Platform.chipSet
  by_cases hk : p.keepsChip c chip = true
  · by_cases h0 : chip = 0
    · subst h0
      by_cases hx : x = 0 <;> simp [Platform.chip, hk, hx, Memory.get_set, Fin.ext_iff]
    · obtain rfl := Chip.eq_one h0
      by_cases hx : x = 0
      · simp [Platform.chip, hk, hx]
      · obtain rfl := Chip.eq_one hx
        simp [Platform.chip, hk, Memory.get_set, Fin.ext_iff]
  · simp [hk]

/-- All a byte move of a stash does. -/
theorem Platform.moveByte_stash_eq (p : Platform) (c : Config) (h : HostAddr) (d : DevAddr) :
    p.moveByte .stash c h d =
      { p with devMem := (p.moveByte .stash c h d).devMem, free := (p.moveByte .stash c h d).free } := by
  simp only [Platform.moveByte]
  rw [Platform.devWrite_eq, Platform.hostRead_snd_eq]

/-- All a byte move of a fetch does. -/
theorem Platform.moveByte_fetch_eq (p : Platform) (c : Config) (h : HostAddr) (d : DevAddr) :
    p.moveByte .fetch c h d =
      { p with hostMem := (p.moveByte .fetch c h d).hostMem, free := (p.moveByte .fetch c h d).free } := by
  simp only [Platform.moveByte]
  rw [Platform.hostWrite_eq, Platform.devRead_snd_eq]

/-- All the byte moves of a stash do. -/
theorem Platform.moveBytes_stash_eq (c : Config) (n : Nat) (h : HostAddr) (d : DevAddr) (p : Platform) :
    Platform.moveBytes .stash c n h d p =
      { p with
        devMem := (Platform.moveBytes .stash c n h d p).devMem
        free := (Platform.moveBytes .stash c n h d p).free } := by
  induction n generalizing h d p with
  | zero => rfl
  | succ n ih =>
    simp only [Platform.moveBytes]
    rw [ih, Platform.moveByte_stash_eq]

/-- All the byte moves of a fetch do. -/
theorem Platform.moveBytes_fetch_eq (c : Config) (n : Nat) (h : HostAddr) (d : DevAddr) (p : Platform) :
    Platform.moveBytes .fetch c n h d p =
      { p with
        hostMem := (Platform.moveBytes .fetch c n h d p).hostMem
        free := (Platform.moveBytes .fetch c n h d p).free } := by
  induction n generalizing h d p with
  | zero => rfl
  | succ n ih =>
    simp only [Platform.moveBytes]
    rw [ih, Platform.moveByte_fetch_eq]

/-! ### The ports -/

/-- All a MemWrite does. -/
theorem memWrite_eq (a : HostAddr) (v : Byte) (s : State) :
    memWrite a v s = { s with plat := { s.plat with
      events := s.plat.events ++ [.memWrite a v], hostMem := (memWrite a v s).plat.hostMem } } := by
  unfold memWrite
  conv_lhs => simp only; rw [Platform.hostWrite_eq]
  rfl

theorem memWrite_events (a : HostAddr) (v : Byte) (s : State) :
    (memWrite a v s).plat.events = s.plat.events ++ [.memWrite a v] := by rw [memWrite_eq]

theorem memWrite_hostKnown (a x : HostAddr) (v : Byte) (s : State) :
    (memWrite a v s).hostKnown x =
      if s.plat.keeps s.cfg a = true ∧ x = a then some v else s.hostKnown x :=
  Platform.get_hostWrite (emit (.memWrite a v) s).plat s.cfg a x v

/-- All a MemRead does. -/
theorem memRead_snd_eq (a : HostAddr) (s : State) :
    (memRead a s).2 = { s with plat := { s.plat with
      events := s.plat.events ++ [.memRead a], free := (memRead a s).2.plat.free } } := by
  unfold memRead
  conv_lhs => simp only; rw [Platform.hostRead_snd_eq]
  rfl

theorem memRead_fst (a : HostAddr) (s : State) : (memRead a s).1 = s.hostByte a := by
  unfold memRead State.hostByte Platform.hostRead Platform.keeps emit
  simp only
  split <;> rfl

/-- All a ChipWrite does. -/
theorem chipWrite_eq (c : Chip) (o : Offset) (v : Byte) (s : State) :
    chipWrite c o v s = { s with plat := { s.plat with
      events := s.plat.events ++ [.chipWrite c o v]
      chip0 := (chipWrite c o v s).plat.chip0
      chip1 := (chipWrite c o v s).plat.chip1 } } := by
  unfold chipWrite
  conv_lhs => simp only; rw [Platform.chipSet_eq]
  rfl

theorem chipWrite_chipKnown (c x : Chip) (o y : Offset) (v : Byte) (s : State) :
    (chipWrite c o v s).chipKnown x y =
      if s.plat.keepsChip s.cfg c = true ∧ x = c ∧ y = o then some v else s.chipKnown x y :=
  Platform.get_chipSet (emit (.chipWrite c o v) s).plat s.cfg c x o y v

/-- All a stash does. -/
theorem dmaXfer_stash_eq (n : Byte) (h : HostAddr) (d : DevAddr) (s : State) :
    dmaXfer .stash n h d s = { s with plat := { s.plat with
      events := s.plat.events ++ [.dmaXfer .stash n h d]
      devMem := (dmaXfer .stash n h d s).plat.devMem
      devLen := s.plat.lengthAfter
      free := (dmaXfer .stash n h d s).plat.free } } := by
  unfold dmaXfer Platform.transfer
  simp only
  rw [Platform.moveBytes_stash_eq]
  rfl

/-- All a fetch does. -/
theorem dmaXfer_fetch_eq (n : Byte) (h : HostAddr) (d : DevAddr) (s : State) :
    dmaXfer .fetch n h d s = { s with plat := { s.plat with
      events := s.plat.events ++ [.dmaXfer .fetch n h d]
      hostMem := (dmaXfer .fetch n h d s).plat.hostMem
      devLen := s.plat.lengthAfter
      free := (dmaXfer .fetch n h d s).plat.free } } := by
  unfold dmaXfer Platform.transfer
  simp only
  rw [Platform.moveBytes_fetch_eq]
  rfl

/-! ### The cursor -/

/-- A linear advance. -/
@[simp] theorem advance_false (s : State) : advance false s = .next { s with cur := s.cur + 1 } := rfl

/-- A rectangular advance with a size, inside a row. -/
theorem advance_inside {s : State} (h : s.rectSize ≠ 0) (hc : s.col - 1 ≠ 0) :
    advance true s = .next { s with cur := s.cur + 1, col := s.col - 1 } := by
  unfold advance columnStep
  simp only [if_true]
  rw [if_neg h, if_neg hc]

/-- A rectangular advance with a size, at the end of a row. -/
theorem advance_rowEnd {s : State} (h : s.rectSize ≠ 0) (hc : s.col - 1 = 0) :
    advance true s = .next { s with cur := s.cur + 1 + rectSkip s, col := s.rectSize } := by
  unfold advance columnStep
  simp only [if_true]
  rw [if_neg h, if_pos hc]
  rfl

/-- A rectangular advance without a size has no meaning. -/
theorem advance_sizeZero {s : State} (h : s.rectSize = 0) :
    advance true s = .refused (.rectSizeZero { s with cur := s.cur + 1 }) := by
  unfold advance
  simp only [if_true]
  rw [if_pos h]

/-- All an advance that answers a next state does. -/
theorem advance_eq {rect : Bool} {s t : State} (h : advance rect s = .next t) :
    t = { s with cur := t.cur, col := t.col } ∧ (rect = true → s.rectSize ≠ 0) := by
  cases rect with
  | false => cases h; exact ⟨rfl, by simp⟩
  | true =>
    by_cases hs : s.rectSize = 0
    · rw [advance_sizeZero hs] at h; cases h
    · by_cases hc : s.col - 1 = 0
      · rw [advance_rowEnd hs hc] at h; cases h; exact ⟨rfl, fun _ => hs⟩
      · rw [advance_inside hs hc] at h; cases h; exact ⟨rfl, fun _ => hs⟩

/-- An advance answers a next state exactly when a rectangular one has a size. -/
theorem advance_total {rect : Bool} {s : State} (h : rect = true → s.rectSize ≠ 0) :
    ∃ t, advance rect s = .next t := by
  cases rect with
  | false => exact ⟨_, rfl⟩
  | true =>
    by_cases hc : s.col - 1 = 0
    · exact ⟨_, advance_rowEnd (h rfl) hc⟩
    · exact ⟨_, advance_inside (h rfl) hc⟩

/-! ### The records and the loader -/

/-- All a record byte does: it touches the records only. -/
theorem setRecordByte_eq (r : Record) (i : Nat) (v : Byte) (s : State) :
    setRecordByte r i v s = { s with
      bufAddr := (setRecordByte r i v s).bufAddr
      dmaDevAddr := (setRecordByte r i v s).dmaDevAddr
      dmaCount := (setRecordByte r i v s).dmaCount
      rectStart := (setRecordByte r i v s).rectStart
      rectSize := (setRecordByte r i v s).rectSize
      rectInc := (setRecordByte r i v s).rectInc
      fillValue := (setRecordByte r i v s).fillValue
      fillCount := (setRecordByte r i v s).fillCount
      copyFrom := (setRecordByte r i v s).copyFrom
      copyCount := (setRecordByte r i v s).copyCount } := by
  cases r <;> simp only [setRecordByte]
  · unfold setAddrByte; split <;> rfl
  · unfold setRectByte; split <;> rfl
  · unfold setFillByte; split <;> rfl
  · unfold setCopyByte; split <;> rfl

theorem recordBytes_length (s : State) (r : Record) : (recordBytes s r).length = r.length := by cases r <;> rfl

theorem getLsbD_setLow16 (x : BitVec 16) (v : Byte) (i : Nat) :
    (setLow16 x v).getLsbD i = if i < 8 then v.getLsbD i else decide (i - 8 < 8) && x.getLsbD (8 + (i - 8)) := by
  unfold setLow16; rw [BitVec.getLsbD_append]; simp
theorem getLsbD_setHigh16 (x : BitVec 16) (v : Byte) (i : Nat) :
    (setHigh16 x v).getLsbD i = if i < 8 then x.getLsbD i else v.getLsbD (i - 8) := by
  unfold setHigh16; rw [BitVec.getLsbD_append]; simp +contextual
theorem getLsbD_setLow24 (x : BitVec 24) (v : Byte) (i : Nat) :
    (setLow24 x v).getLsbD i = if i < 8 then v.getLsbD i else decide (i - 8 < 16) && x.getLsbD (8 + (i - 8)) := by
  unfold setLow24; rw [BitVec.getLsbD_append]; simp
theorem getLsbD_setMid24 (x : BitVec 24) (v : Byte) (i : Nat) :
    (setMid24 x v).getLsbD i = if i < 8 then x.getLsbD i else if i - 8 < 8 then v.getLsbD (i - 8) else
      decide (i - 8 - 8 < 8) && x.getLsbD (16 + (i - 8 - 8)) := by
  unfold setMid24; rw [BitVec.getLsbD_append, BitVec.getLsbD_append]; simp +contextual
theorem getLsbD_setHigh24 (x : BitVec 24) (v : Byte) (i : Nat) :
    (setHigh24 x v).getLsbD i = if i < 16 then x.getLsbD i else v.getLsbD (i - 16) := by
  unfold setHigh24; rw [BitVec.getLsbD_append]; simp +contextual

theorem extract_setLow16_low (x : BitVec 16) (v : Byte) : (setLow16 x v).extractLsb' 0 8 = v := by
  apply BitVec.eq_of_getLsbD_eq; intro i hi
  rw [BitVec.getLsbD_extractLsb', getLsbD_setLow16, if_pos (by omega)]
  simp [hi]

theorem extract_setLow16_high (x : BitVec 16) (v : Byte) : (setLow16 x v).extractLsb' 8 8 = x.extractLsb' 8 8 := by
  apply BitVec.eq_of_getLsbD_eq; intro i hi
  rw [BitVec.getLsbD_extractLsb', getLsbD_setLow16, if_neg (by omega)]
  simp

theorem extract_setHigh16_low (x : BitVec 16) (v : Byte) : (setHigh16 x v).extractLsb' 0 8 = x.extractLsb' 0 8 := by
  apply BitVec.eq_of_getLsbD_eq; intro i hi
  rw [BitVec.getLsbD_extractLsb', getLsbD_setHigh16, if_pos (by omega)]
  simp

theorem extract_setHigh16_high (x : BitVec 16) (v : Byte) : (setHigh16 x v).extractLsb' 8 8 = v := by
  apply BitVec.eq_of_getLsbD_eq; intro i hi
  rw [BitVec.getLsbD_extractLsb', getLsbD_setHigh16, if_neg (by omega)]
  simp [hi]

theorem extract_setLow24_low (x : BitVec 24) (v : Byte) : (setLow24 x v).extractLsb' 0 8 = v := by
  apply BitVec.eq_of_getLsbD_eq; intro i hi
  rw [BitVec.getLsbD_extractLsb', getLsbD_setLow24, if_pos (by omega)]
  simp [hi]

theorem extract_setLow24_mid (x : BitVec 24) (v : Byte) : (setLow24 x v).extractLsb' 8 8 = x.extractLsb' 8 8 := by
  apply BitVec.eq_of_getLsbD_eq; intro i hi
  rw [BitVec.getLsbD_extractLsb', getLsbD_setLow24, if_neg (by omega)]
  simp [show i < 16 by omega, hi]

theorem extract_setLow24_high (x : BitVec 24) (v : Byte) : (setLow24 x v).extractLsb' 16 8 = x.extractLsb' 16 8 := by
  apply BitVec.eq_of_getLsbD_eq; intro i hi
  rw [BitVec.getLsbD_extractLsb', getLsbD_setLow24, if_neg (by omega)]
  rw [show 8 + (16 + i - 8) = 16 + i by omega]
  simp [show 16 + i - 8 < 16 by omega, hi]

theorem extract_setMid24_low (x : BitVec 24) (v : Byte) : (setMid24 x v).extractLsb' 0 8 = x.extractLsb' 0 8 := by
  apply BitVec.eq_of_getLsbD_eq; intro i hi
  rw [BitVec.getLsbD_extractLsb', getLsbD_setMid24, if_pos (by omega)]
  simp

theorem extract_setMid24_mid (x : BitVec 24) (v : Byte) : (setMid24 x v).extractLsb' 8 8 = v := by
  apply BitVec.eq_of_getLsbD_eq; intro i hi
  rw [BitVec.getLsbD_extractLsb', getLsbD_setMid24, if_neg (by omega), if_pos (by omega)]
  simp [hi]

theorem extract_setMid24_high (x : BitVec 24) (v : Byte) : (setMid24 x v).extractLsb' 16 8 = x.extractLsb' 16 8 := by
  apply BitVec.eq_of_getLsbD_eq; intro i hi
  rw [BitVec.getLsbD_extractLsb', getLsbD_setMid24, if_neg (by omega), if_neg (by omega)]
  simp [Nat.sub_sub, hi]

theorem extract_setHigh24_low (x : BitVec 24) (v : Byte) : (setHigh24 x v).extractLsb' 0 8 = x.extractLsb' 0 8 := by
  apply BitVec.eq_of_getLsbD_eq; intro i hi
  rw [BitVec.getLsbD_extractLsb', getLsbD_setHigh24, if_pos (by omega)]
  simp

theorem extract_setHigh24_mid (x : BitVec 24) (v : Byte) : (setHigh24 x v).extractLsb' 8 8 = x.extractLsb' 8 8 := by
  apply BitVec.eq_of_getLsbD_eq; intro i hi
  rw [BitVec.getLsbD_extractLsb', getLsbD_setHigh24, if_pos (by omega)]
  simp

theorem extract_setHigh24_high (x : BitVec 24) (v : Byte) : (setHigh24 x v).extractLsb' 16 8 = v := by
  apply BitVec.eq_of_getLsbD_eq; intro i hi
  rw [BitVec.getLsbD_extractLsb', getLsbD_setHigh24, if_neg (by omega)]
  simp [hi]

end Sys2Proof.Machine
end

