-- ==== Sys2Proof/Laws/Cursor.lean ====
section
/-! SUPPORT. Where the cursor stands after j advances (43_rect.md R202 to R204). -/

namespace Sys2Proof.Machine

/-- The state u is the state s after an operation that set up the cursor and stored j bytes. -/
structure AtByte (rect : Bool) (s u : State) (j : Nat) : Prop where
  cur : u.cur = cursorAt rect s j
  col : rect = true → u.col.toNat = s.rectSize.toNat - j % s.rectSize.toNat
  fixed : rect = false → u.col = s.rectSize
  start : u.rectStart = s.rectStart
  size : u.rectSize = s.rectSize
  inc : u.rectInc = s.rectInc

theorem AtByte.skip {rect : Bool} {s u : State} {j : Nat} (h : AtByte rect s u j) : rectSkip u = rectSkip s := by
  simp only [rectSkip, h.start, h.size, h.inc]

/-- The address before the first byte. -/
theorem cursorAt_zero (rect : Bool) (s : State) : cursorAt rect s 0 = s.bufAddr := by
  simp [cursorAt]

theorem AtByte.zero (rect : Bool) (s : State) : AtByte rect s (cursorInit s) 0 :=
  ⟨(cursorAt_zero rect s).symm, fun _ => by simp, fun _ => rfl, rfl, rfl, rfl⟩

/-- Inside a row the column moves on. -/
theorem succ_mod_inside {j n : Nat} (hn : 0 < n) (h : j % n + 1 ≠ n) : (j + 1) % n = j % n + 1 := by
  have := Nat.mod_lt j hn
  rw [Nat.add_mod]
  rcases Nat.lt_or_ge 1 n with h1 | h1
  · rw [Nat.mod_eq_of_lt h1, Nat.mod_eq_of_lt (by omega)]
  · omega

/-- At the end of a row the column returns. -/
theorem succ_mod_rowEnd {j n : Nat} (h : j % n + 1 = n) : (j + 1) % n = 0 := by
  have := Nat.div_add_mod j n
  rw [show j + 1 = n * (j / n + 1) by rw [Nat.mul_add]; omega, Nat.mul_mod_right]

/-- The next address inside a row, or of a linear operation. -/
theorem cursorAt_succ_inside {rect : Bool} {s : State} {j : Nat}
    (h : rect = true → j % s.rectSize.toNat + 1 ≠ s.rectSize.toNat) (hs : rect = true → s.rectSize ≠ 0) :
    cursorAt rect s (j + 1) = cursorAt rect s j + 1 := by
  have hd : rect = true → (j + 1) / s.rectSize.toNat = j / s.rectSize.toNat := by
    intro hr
    have hp : 0 < s.rectSize.toNat := Nat.pos_of_ne_zero fun h0 => hs hr (BitVec.eq_of_toNat_eq h0)
    rw [Nat.succ_div, if_neg, Nat.add_zero]
    intro hdvd
    have := succ_mod_inside hp (h hr)
    rw [Nat.mod_eq_zero_of_dvd hdvd] at this
    omega
  unfold cursorAt
  cases rect with
  | false => simp only [Bool.false_eq_true, if_false]; rw [BitVec.ofNat_add]; ac_rfl
  | true => simp only [if_true, hd rfl]; rw [BitVec.ofNat_add]; ac_rfl

/-- The next address at the end of a row. -/
theorem cursorAt_succ_rowEnd {s : State} {j : Nat} (h : j % s.rectSize.toNat + 1 = s.rectSize.toNat) :
    cursorAt true s (j + 1) = cursorAt true s j + 1 + rectSkip s := by
  have hd : (j + 1) / s.rectSize.toNat = j / s.rectSize.toNat + 1 := by
    rw [Nat.succ_div, if_pos]
    refine ⟨j / s.rectSize.toNat + 1, ?_⟩
    have := Nat.div_add_mod j s.rectSize.toNat
    rw [Nat.mul_add]; omega
  unfold cursorAt
  simp only [if_true, hd]
  rw [BitVec.ofNat_add, BitVec.ofNat_add, BitVec.add_mul, BitVec.one_mul]
  ac_rfl

/-- An advance of an operation that may store a byte takes the cursor to the next address. -/
theorem AtByte.advance {rect : Bool} {s u : State} {j : Nat} (h : AtByte rect s u j)
    (hs : rect = true → s.rectSize ≠ 0) :
    ∃ t, advance rect u = .next t ∧ t = { u with cur := t.cur, col := t.col } ∧ AtByte rect s t (j + 1) := by
  cases rect with
  | false =>
    refine ⟨_, rfl, rfl, ?_, by simp, h.fixed, h.start, h.size, h.inc⟩
    simp only [h.cur]
    exact (cursorAt_succ_inside (by simp) (by simp)).symm
  | true =>
    have hs := hs rfl
    have hu : u.rectSize ≠ 0 := h.size ▸ hs
    have hc := h.col rfl
    have hp : 0 < s.rectSize.toNat := Nat.pos_of_ne_zero fun h0 => hs (BitVec.eq_of_toNat_eq h0)
    have hlt := Nat.mod_lt j hp
    by_cases he : j % s.rectSize.toNat + 1 = s.rectSize.toNat
    · have : u.col = 1 := BitVec.eq_of_toNat_eq (by simp; omega)
      refine ⟨_, advance_rowEnd hu (by simp [this]), rfl, ?_, ?_, by simp, h.start, h.size, h.inc⟩
      · simp only [h.cur, h.skip, cursorAt_succ_rowEnd he]
      · intro _; simp only [h.size, succ_mod_rowEnd he]; omega
    · have h1 : (u.col - 1).toNat = u.col.toNat - 1 := by
        rw [BitVec.toNat_sub_of_le (by simp [BitVec.le_def]; omega)]; rfl
      refine ⟨_, advance_inside hu (fun h0 => ?_), rfl, ?_, ?_, by simp, h.start, h.size, h.inc⟩
      · rw [h0] at h1; simp at h1; omega
      · simp only [h.cur]
        exact (cursorAt_succ_inside (fun _ => he) (fun _ => hs)).symm
      · intro _; simp only [h1, hc, succ_mod_inside hp he]; omega

end Sys2Proof.Machine
end

