-- ==== Sys2Proof/Laws/Dma.lean ====
section
/-! SUPPORT. What one chunk of the DMA loop does (45_dma.md R240, R246), and what a transfer moves (20_memory.md
R64). -/

namespace Sys2Proof.Machine

/-! ### A transfer -/

/-- What a DMA transfer leaves of host memory outside the bytes it stores. -/
theorem Platform.moveBytes_hostMem_other (dir : DmaDir) (c : Config) (n : Nat) (h : HostAddr) (d : DevAddr)
    (p : Platform) {x : HostAddr} (hx : dir = .fetch → ∀ i < n, h + BitVec.ofNat 16 i ≠ x) :
    Memory.get? (Platform.moveBytes dir c n h d p).hostMem x.toNat = Memory.get? p.hostMem x.toNat := by
  induction n generalizing h d p with
  | zero => rfl
  | succ n ih =>
    simp only [Platform.moveBytes]
    rw [ih]
    · cases dir with
      | stash => rw [Platform.moveByte_stash_eq]
      | fetch =>
        simp only [Platform.moveByte]
        rw [Platform.get_hostWrite, if_neg, Platform.devRead_snd_eq]
        rintro ⟨-, rfl⟩
        exact hx rfl 0 (by omega) (by simp)
    · intro hd i hi he
      refine hx hd (i + 1) (by omega) ?_
      rw [← he, BitVec.ofNat_add, BitVec.add_comm (BitVec.ofNat 16 i), BitVec.add_assoc]
      rfl

/-- What a DMA transfer leaves of device memory outside the bytes it stores. -/
theorem Platform.moveBytes_devMem_other (dir : DmaDir) (c : Config) (n : Nat) (h : HostAddr) (d : DevAddr)
    (p : Platform) {x : DevAddr} (hx : dir = .stash → ∀ i < n, d + BitVec.ofNat 24 i ≠ x) :
    Memory.get? (Platform.moveBytes dir c n h d p).devMem x.toNat = Memory.get? p.devMem x.toNat := by
  induction n generalizing h d p with
  | zero => rfl
  | succ n ih =>
    simp only [Platform.moveBytes]
    rw [ih]
    · cases dir with
      | fetch => rw [Platform.moveByte_fetch_eq]
      | stash =>
        simp only [Platform.moveByte]
        rw [Platform.get_devWrite, if_neg, Platform.hostRead_snd_eq]
        rintro ⟨-, rfl⟩
        exact hx rfl 0 (by omega) (by simp)
    · intro hd i hi he
      refine hx hd (i + 1) (by omega) ?_
      rw [← he, BitVec.ofNat_add, BitVec.add_comm (BitVec.ofNat 24 i), BitVec.add_assoc]
      rfl

/-! ### The DMA loop -/

/-- The state u is the state s after a DMA operation that issued k chunks. -/
structure AtChunk (mode : DmaMode) (rect : Bool) (s u : State) (k : Nat) : Prop where
  cur : u.cur = chunkHost rect s k
  dcur : u.dcur = chunkDev mode s k
  start : u.rectStart = s.rectStart
  size : u.rectSize = s.rectSize
  inc : u.rectInc = s.rectInc

theorem AtChunk.zero (mode : DmaMode) (rect : Bool) (s : State) :
    AtChunk mode rect s { cursorInit s with dcur := s.dmaDevAddr } 0 := by
  refine ⟨?_, ?_, rfl, rfl, rfl⟩
  · simp [chunkHost, cursorInit]
  · cases mode <;> simp [chunkDev]

theorem AtChunk.skip {mode : DmaMode} {rect : Bool} {s u : State} {k : Nat} (h : AtChunk mode rect s u k) :
    rectSkip u = rectSkip s := by
  simp only [rectSkip, h.start, h.size, h.inc]

theorem chunkHost_succ (rect : Bool) (s : State) (k : Nat) :
    chunkHost rect s (k + 1) =
      if rect then chunkHost rect s k + s.rectSize.setWidth 16 + rectSkip s
      else chunkHost rect s k + s.rectSize.setWidth 16 := by
  unfold chunkHost
  rw [BitVec.ofNat_add, BitVec.add_mul, BitVec.one_mul]
  cases rect <;> simp <;> ac_rfl

theorem chunkDev_succ (mode : DmaMode) (s : State) (k : Nat) :
    chunkDev mode s (k + 1) =
      match mode with
      | .incr => chunkDev mode s k + s.rectSize.setWidth 24
      | .fixed => chunkDev mode s k := by
  cases mode with
  | fixed => rfl
  | incr =>
    simp only [chunkDev]
    rw [BitVec.ofNat_add, BitVec.add_mul, BitVec.one_mul]
    ac_rfl

/-- One chunk: a transfer at the chunk's addresses, the count down by the size, both addresses moved on. -/
theorem AtChunk.dmaChunk {dir : DmaDir} {mode : DmaMode} {rect : Bool} {s u : State} {k : Nat}
    (h : AtChunk mode rect s u k) :
    AtChunk mode rect s (dmaChunk dir mode rect u) (k + 1) ∧
    dmaChunk dir mode rect u = { u with
      cur := (dmaChunk dir mode rect u).cur
      dcur := (dmaChunk dir mode rect u).dcur
      dmaCount := u.dmaCount - s.rectSize.setWidth 16
      plat := (dmaXfer dir s.rectSize (chunkHost rect s k) (chunkDev mode s k) u).plat } := by
  have hx : dmaXfer dir u.rectSize u.cur u.dcur u =
      { u with plat := (dmaXfer dir s.rectSize (chunkHost rect s k) (chunkDev mode s k) u).plat } := by
    rw [← h.size, ← h.cur, ← h.dcur]; rfl
  unfold Machine.dmaChunk
  rw [hx]
  generalize (dmaXfer dir s.rectSize (chunkHost rect s k) (chunkDev mode s k) u).plat = p
  constructor
  · constructor
    · rw [chunkHost_succ, ← h.cur, ← h.size, ← h.skip]
      cases mode <;> cases rect <;> rfl
    · rw [chunkDev_succ, ← h.dcur, ← h.size]
      cases mode <;> cases rect <;> rfl
    · rw [← h.start]; cases mode <;> cases rect <;> rfl
    · rw [← h.size]; cases mode <;> cases rect <;> rfl
    · rw [← h.inc]; cases mode <;> cases rect <;> rfl
  · rw [← h.size]
    cases mode <;> cases rect <;> rfl

end Sys2Proof.Machine
end

