-- ==== Sys2Proof/Laws/FillCopy.lean ====
section
/-! SUPPORT. What one iteration of the fill and copy loops does (44_fill_copy.md R216, R220). -/

namespace Sys2Proof.Machine

theorem AtByte.of_plat {rect : Bool} {s u : State} {j : Nat} (p : Platform) (h : AtByte rect s u j) :
    AtByte rect s { u with plat := p } j := ⟨h.cur, h.col, h.fixed, h.start, h.size, h.inc⟩

theorem memWrite_plat (a : HostAddr) (v : Byte) (s : State) :
    memWrite a v s = { s with plat := (memWrite a v s).plat } := rfl

theorem memRead_plat (a : HostAddr) (s : State) : (memRead a s).2 = { s with plat := (memRead a s).2.plat } := rfl

/-- One iteration of the fill loop: a byte written at the cursor, the cursor moved on, the count down. -/
theorem AtByte.fillOnce {rect : Bool} {s u : State} {j : Nat} (h : AtByte rect s u j)
    (hs : rect = true → s.rectSize ≠ 0) :
    ∃ t, fillOnce rect u = .next t ∧ AtByte rect s t (j + 1) ∧
      t = { u with
        cur := t.cur, col := t.col, fillCount := u.fillCount - 1
        plat := (memWrite (cursorAt rect s j) u.fillValue u).plat } := by
  obtain ⟨t, h1, h2, h3⟩ := (h.of_plat (memWrite u.cur u.fillValue u).plat).advance hs
  refine ⟨{ t with fillCount := t.fillCount - 1 }, ?_, ⟨h3.cur, h3.col, h3.fixed, h3.start, h3.size, h3.inc⟩, ?_⟩
  · unfold Machine.fillOnce
    rw [memWrite_plat, h1, andThen_next]
  · rw [h2, ← h.cur]

/-- One iteration of the copy loop: a byte read, written at the cursor, both addresses moved on, the count down. -/
theorem AtByte.copyOnce {rect : Bool} {s u : State} {j : Nat} (h : AtByte rect s u j)
    (hs : rect = true → s.rectSize ≠ 0) :
    ∃ t, copyOnce rect u = .next t ∧ AtByte rect s t (j + 1) ∧
      t = { u with
        cur := t.cur, col := t.col, copyFrom := u.copyFrom + 1, copyCount := u.copyCount - 1
        plat := (memWrite (cursorAt rect s j) (u.hostByte u.copyFrom) (memRead u.copyFrom u).2).plat } := by
  obtain ⟨t, h1, h2, h3⟩ := AtByte.advance (u := { u with
    copyFrom := u.copyFrom + 1
    plat := (memWrite u.cur (u.hostByte u.copyFrom) (memRead u.copyFrom u).2).plat }) (j := j) (rect := rect) (s := s)
    ⟨h.cur, h.col, h.fixed, h.start, h.size, h.inc⟩ hs
  refine ⟨{ t with copyCount := t.copyCount - 1 }, ?_, ⟨h3.cur, h3.col, h3.fixed, h3.start, h3.size, h3.inc⟩, ?_⟩
  · unfold Machine.copyOnce
    simp only [memRead_fst]
    rw [memWrite_plat, memRead_plat]
    exact congrArg (fun r => andThen r fun s => .next { s with copyCount := s.copyCount - 1 }) h1
  · rw [h2, ← h.cur]

end Sys2Proof.Machine
end

