-- ==== Sys2Proof/Laws/Handlers.lean ====
section
/-! SUPPORT. What each data handler and stop handler may change, said once. -/

namespace Sys2Proof.Machine

/-! ### The shadow store -/

/-- All the flush of a bank does, for any part of the offsets: it writes a chip. -/
theorem flushOver_eq (bank chip : Chip) (s : State) (os : List Offset) (u : State) :
    os.foldl (fun t o => chipWrite chip o (shadowAt s bank o) t) u = { u with plat := { u.plat with
      events := u.plat.events ++ os.map fun o => .chipWrite chip o (shadowAt s bank o)
      chip0 := (os.foldl (fun t o => chipWrite chip o (shadowAt s bank o) t) u).plat.chip0
      chip1 := (os.foldl (fun t o => chipWrite chip o (shadowAt s bank o) t) u).plat.chip1 } } := by
  induction os generalizing u with
  | nil => simp
  | cons o os ih =>
    have h := ih (chipWrite chip o (shadowAt s bank o) u)
    rw [List.foldl_cons]
    generalize os.foldl _ _ = t at h ⊢
    generalize t.plat.chip0 = m0 at h
    generalize t.plat.chip1 = m1 at h
    rw [h, chipWrite_eq]
    simp

/-- All a flush does (R157). -/
theorem flush_eq (bank chip : Chip) (s : State) :
    flush bank chip s = { s with plat := { s.plat with
      events := s.plat.events ++ flushEvents bank chip s
      chip0 := (flush bank chip s).plat.chip0
      chip1 := (flush bank chip s).plat.chip1 } } :=
  flushOver_eq bank chip s _ s

@[simp] theorem flush_shadowAt (bank chip c : Chip) (o : Offset) (s : State) :
    shadowAt (flush bank chip s) c o = shadowAt s c o := by rw [flush_eq]; rfl

theorem flushOver_chipKnown (bank chip c : Chip) (s : State) (o : Offset) (os : List Offset) (u : State) :
    (os.foldl (fun t o => chipWrite chip o (shadowAt s bank o) t) u).chipKnown c o =
      if u.plat.keepsChip u.cfg chip = true ∧ c = chip ∧ o ∈ os then some (shadowAt s bank o)
      else u.chipKnown c o := by
  induction os generalizing u with
  | nil => simp
  | cons x os ih =>
    simp only [List.foldl_cons]
    rw [ih, chipWrite_chipKnown]
    have hk : (chipWrite chip x (shadowAt s bank x) u).plat.keepsChip (chipWrite chip x (shadowAt s bank x) u).cfg chip =
        u.plat.keepsChip u.cfg chip := by rw [chipWrite_eq]; rfl
    rw [hk]
    by_cases h1 : u.plat.keepsChip u.cfg chip = true ∧ c = chip
    · obtain ⟨h1, rfl⟩ := h1
      by_cases h2 : o ∈ os
      · simp [h1, h2]
      · by_cases h3 : o = x
        · subst h3; simp [h1, h2]
        · simp [h2, h3]
    · rw [if_neg (fun h => h1 ⟨h.1, h.2.1⟩), if_neg (fun h => h1 ⟨h.1, h.2.1⟩), if_neg (fun h => h1 ⟨h.1, h.2.1⟩)]

/-- A flush makes its chip hold its bank, where the platform keeps what is written to the chip (R157). -/
theorem flush_chipKnown (bank chip c : Chip) (o : Offset) (s : State) :
    (flush bank chip s).chipKnown c o =
      if s.plat.keepsChip s.cfg chip = true ∧ c = chip then some (shadowAt s bank o) else s.chipKnown c o := by
  unfold flush
  rw [flushOver_chipKnown]
  simp

theorem shadowAt_setShadow (c c' : Chip) (o o' : Offset) (v : Byte) (s : State) :
    shadowAt (setShadow c o v s) c' o' = if c' = c ∧ o' = o then v else shadowAt s c' o' := by
  unfold shadowAt setShadow
  by_cases hc : c' = c
  · subst hc
    by_cases ho : o' = o
    · subst ho; simp
    · have : o.val ≠ o'.val := fun h => ho (Fin.ext h.symm)
      simp [ho, this]
  · have : c.val ≠ c'.val := fun h => hc (Fin.ext h.symm)
    simp [hc, this]

/-- All the decoded operands of an update do: they write a shadow bank. -/
theorem applyPairs_eq (bank : Chip) (ps : List (LogicalId × Byte)) (s : State) :
    applyPairs bank ps s = { s with shadow := (applyPairs bank ps s).shadow } := by
  unfold applyPairs
  induction ps generalizing s with
  | nil => rfl
  | cons p ps ih =>
    have h := ih (setShadow bank s.cfg.regmap[p.1] p.2 s)
    rw [List.foldl_cons]
    generalize ps.foldl _ _ = t at h ⊢
    generalize t.shadow = w at h
    rw [h]
    rfl

theorem applyPair_eq (bank : Chip) (x : Septet) (y : Byte) (s : State) :
    applyPair bank x y s = { s with shadow := (applyPair bank x y s).shadow } := by
  unfold applyPair; split <;> rfl

/-- All UPD_REG does (R161). -/
theorem regByte_eq (bank : Chip) (b : Byte) (s : State) :
    regByte bank b s = { s with
      shadow := (regByte bank b s).shadow, urHave := (regByte bank b s).urHave, urIdx := (regByte bank b s).urIdx } := by
  unfold regByte
  split
  · have h := applyPair_eq bank s.urIdx b s
    generalize applyPair bank s.urIdx b s = t at h ⊢
    generalize t.shadow = w at h
    rw [h]
  · rfl

/-- All UPD_MASK does (R153). -/
theorem updCollect_eq (b : Byte) (s : State) :
    updCollect b s = { s with ubuf := (updCollect b s).ubuf, ucnt := (updCollect b s).ucnt } := by
  unfold updCollect; split <;> rfl

/-- All UPD_COMMIT does: it writes shadow banks and chips (R154). -/
theorem updCommit_eq (sel : UpdSel) (s : State) :
    updCommit sel s = { s with
      shadow := (updCommit sel s).shadow
      plat := { s.plat with
        events := (updCommit sel s).plat.events
        chip0 := (updCommit sel s).plat.chip0
        chip1 := (updCommit sel s).plat.chip1 } } := by
  have hf : ∀ bank chip (u : State), ∃ e m0 m1,
      flush bank chip u = { u with plat := { u.plat with events := e, chip0 := m0, chip1 := m1 } } :=
    fun bank chip u => ⟨_, _, _, flush_eq bank chip u⟩
  have hd : ∃ w, decodeUpdate sel.bank s = { s with shadow := w } := ⟨_, applyPairs_eq _ _ s⟩
  unfold updCommit
  split
  · obtain ⟨w, hd⟩ := hd
    rw [hd]
    cases sel with
    | chip0 => obtain ⟨e, m0, m1, h⟩ := hf 0 0 { s with shadow := w }; simp only [updFlush]; rw [h]
    | chip1 => obtain ⟨e, m0, m1, h⟩ := hf 1 1 { s with shadow := w }; simp only [updFlush]; rw [h]
    | both =>
      obtain ⟨e, m0, m1, h⟩ := hf 0 0 { s with shadow := w }
      simp only [updFlush]; rw [h]
      obtain ⟨e, m0, m1, h⟩ := hf 0 1 { s with shadow := w, plat := { s.plat with events := e, chip0 := m0, chip1 := m1 } }
      rw [h]
  · rfl

/-! ### The loader -/

/-- All StoreMem does. -/
theorem storeMem_eq {v : Byte} {rect : Bool} {s t : State} (h : storeMem v rect s = .next t) :
    t = { s with
      cur := t.cur, col := t.col
      plat := { s.plat with events := s.plat.events ++ [.memWrite s.cur v], hostMem := t.plat.hostMem } } := by
  obtain ⟨h1, -⟩ := advance_eq h
  rw [memWrite_eq] at h1
  rw [h1]

/-- All StoreRec does: it touches the records and LD_IDX. -/
theorem storeRec_eq (r : Record) (v : Byte) (s : State) :
    storeRec r v s = { s with
      ldIdx := (storeRec r v s).ldIdx
      bufAddr := (storeRec r v s).bufAddr
      dmaDevAddr := (storeRec r v s).dmaDevAddr
      dmaCount := (storeRec r v s).dmaCount
      rectStart := (storeRec r v s).rectStart
      rectSize := (storeRec r v s).rectSize
      rectInc := (storeRec r v s).rectInc
      fillValue := (storeRec r v s).fillValue
      fillCount := (storeRec r v s).fillCount
      copyFrom := (storeRec r v s).copyFrom
      copyCount := (storeRec r v s).copyCount } := by
  unfold storeRec
  split
  · generalize hu : setRecordByte r s.ldIdx.toNat v s = u
    have h := setRecordByte_eq r s.ldIdx.toNat v s
    rw [hu] at h
    rw [h]
  · rfl

/-- All the loader does with a data byte for host memory. -/
theorem loadByte_mem_eq {rect : Bool} {b : Byte} {s t : State} (h : loadByte .mem rect b s = .next t) :
    t = { s with
      ldMask := t.ldMask, ldPending := t.ldPending, cur := t.cur, col := t.col
      plat := { s.plat with events := t.plat.events, hostMem := t.plat.hostMem } } := by
  unfold loadByte at h
  split at h
  · cases h; rfl
  · rw [storeMem_eq h]

/-- A data byte for a record always has a next state. -/
theorem loadByte_record (r : Record) (rect : Bool) (b : Byte) (s : State) :
    loadByte (.record r) rect b s = .next (
      if s.ldPending = 0 then { s with ldMask := b.setWidth 7, ldPending := 7 }
      else storeRec r (withHigh b (s.ldMask.getLsbD 0))
        { s with ldMask := s.ldMask >>> 1, ldPending := s.ldPending - 1 }) := by
  unfold loadByte; split <;> rfl

/-! ### Fill, copy and DMA -/

/-- All a fill does. -/
theorem fillLoop_eq {rect : Bool} {n : Nat} {s t : State} (h : fillLoop rect n s = .next t) :
    t = { s with
      cur := t.cur, col := t.col, fillCount := t.fillCount
      plat := { s.plat with events := t.plat.events, hostMem := t.plat.hostMem } } := by
  induction n generalizing s with
  | zero => cases h; rfl
  | succ n ih =>
    obtain ⟨u, h1, h2⟩ := andThen_eq_next.1 h
    obtain ⟨w, h3, h4⟩ := andThen_eq_next.1 h1
    obtain ⟨h5, -⟩ := advance_eq h3
    rw [memWrite_eq] at h5
    cases h4
    rw [ih h2, h5]

/-- All a copy does. -/
theorem copyLoop_eq {rect : Bool} {n : Nat} {s t : State} (h : copyLoop rect n s = .next t) :
    t = { s with
      cur := t.cur, col := t.col, copyFrom := t.copyFrom, copyCount := t.copyCount
      plat := { s.plat with events := t.plat.events, hostMem := t.plat.hostMem, free := t.plat.free } } := by
  induction n generalizing s with
  | zero => cases h; rfl
  | succ n ih =>
    obtain ⟨u, h1, h2⟩ := andThen_eq_next.1 h
    obtain ⟨w, h3, h4⟩ := andThen_eq_next.1 h1
    obtain ⟨h5, -⟩ := advance_eq h3
    rw [memWrite_eq, memRead_snd_eq] at h5
    cases h4
    rw [ih h2, h5]

/-- All a chunk does. -/
theorem dmaChunk_eq (dir : DmaDir) (mode : DmaMode) (rect : Bool) (s : State) :
    dmaChunk dir mode rect s = { s with
      cur := (dmaChunk dir mode rect s).cur
      dcur := (dmaChunk dir mode rect s).dcur
      dmaCount := s.dmaCount - s.rectSize.setWidth 16
      plat := (dmaXfer dir s.rectSize s.cur s.dcur s).plat } := by
  have hx : dmaXfer dir s.rectSize s.cur s.dcur s =
      { s with plat := (dmaXfer dir s.rectSize s.cur s.dcur s).plat } := rfl
  unfold dmaChunk
  rw [hx]
  generalize (dmaXfer dir s.rectSize s.cur s.dcur s).plat = p
  cases mode <;> cases rect <;> rfl

/-- All a DMA operation does: a stash writes device memory, a fetch host memory. -/
theorem dmaLoop_eq {dir : DmaDir} {mode : DmaMode} {rect : Bool} {n : Nat} {s t : State}
    (h : dmaLoop dir mode rect n s = .next t) :
    t = { s with
      cur := t.cur, dcur := t.dcur, dmaCount := t.dmaCount
      plat := { s.plat with
        events := t.plat.events, hostMem := t.plat.hostMem, devMem := t.plat.devMem
        devLen := t.plat.devLen, free := t.plat.free } } ∧
    (t.plat.devLen = s.plat.devLen ∨ t.plat.devLen = s.plat.lengthAfter) ∧
    (dir = .stash → t.plat.hostMem = s.plat.hostMem) ∧ (dir = .fetch → t.plat.devMem = s.plat.devMem) := by
  induction n generalizing s with
  | zero => cases h; exact ⟨rfl, .inl rfl, fun _ => rfl, fun _ => rfl⟩
  | succ n ih =>
    unfold dmaLoop at h
    split at h
    · cases h; exact ⟨rfl, .inl rfl, fun _ => rfl, fun _ => rfl⟩
    · split at h
      · cases h
      · split at h
        · cases h
        · obtain ⟨h1, h2, h3, h4⟩ := ih h
          rw [dmaChunk_eq] at h1 h2 h3 h4
          cases dir with
          | stash =>
            rw [dmaXfer_stash_eq] at h1 h2 h3 h4
            exact ⟨h1, .inr (h2.elim id id), fun _ => h3 rfl, by simp⟩
          | fetch =>
            rw [dmaXfer_fetch_eq] at h1 h2 h3 h4
            exact ⟨h1, .inr (h2.elim id id), by simp, fun _ => h4 rfl⟩

/-! ### RUN -/

/-- All RUN does to the engine: nothing (R262). -/
theorem runBuffer_eq (s : State) : runBuffer s = { s with plat := (runBuffer s).plat } := by
  unfold runBuffer; split <;> rfl

end Sys2Proof.Machine
end

