-- ==== Sys2Proof/Laws/Framer.lean ====
section
/-! SUPPORT. The byte classes, the command codes, and how exec agrees with the handlers that the framer runs
(30_encoding.md R92, R95; 40_framer_dispatch.md R128, R132, R133). -/

namespace Sys2Proof

theorem classify_frameStart {b : Byte} : classify b = .frameStart ↔ b = 0xF0#8 := by
  unfold classify; split <;> [simp [*]; (split <;> [simp [*]; (split <;> simp [*])])]

theorem classify_frameStop {b : Byte} : classify b = .frameStop ↔ b = 0xF7#8 := by
  unfold classify; split <;> [simp [*]; (split <;> [simp [*]; (split <;> simp [*])])]

theorem classify_data {b : Byte} : classify b = .data ↔ b.msb = false := by
  unfold classify
  split
  · subst_vars; decide
  · split
    · subst_vars; decide
    · cases b.msb <;> simp

theorem classify_realTime {b : Byte} : classify b = .realTime ↔ b.msb = true ∧ b ≠ 0xF0#8 ∧ b ≠ 0xF7#8 := by
  unfold classify; split <;> [simp [*]; (split <;> [simp [*]; (split <;> simp_all)])]

/-- A septet on the wire is a data byte. -/
theorem classify_setWidth (x : Septet) : classify (x.setWidth 8) = .data :=
  classify_data.2 (by rw [BitVec.msb_eq_getLsbD_last]; simp)

theorem setWidth_setWidth (x : Septet) : (x.setWidth 8).setWidth 7 = x := by simp

/-- A data byte is its septet. -/
theorem setWidth_of_data {b : Byte} (h : b.msb = false) : (b.setWidth 7).setWidth 8 = b := by
  apply BitVec.eq_of_toNat_eq
  rw [BitVec.msb_eq_decide] at h
  simp at h ⊢
  omega

theorem Kind.mem_all (k : Kind) : k ∈ Kind.all := by cases k <;> decide

@[simp] theorem Kind.instr_kind (k : Kind) (p : FramePart) : (k.instr p).kind = k := by cases k <;> rfl
@[simp] theorem Kind.instr_part (k : Kind) (p : FramePart) : (k.instr p).part = p := by cases k <;> rfl

theorem kindOf_some {c : Config} {x : Septet} {k : Kind} (h : kindOf c x = some k) : c.code k = x ∧ c.has k = true := by
  have := List.find?_some h
  simpa using this

theorem kindOf_code {c : Config} {k : Kind} (hd : c.codesDistinct) (hk : c.has k = true) :
    kindOf c (c.code k) = some k := by
  unfold kindOf
  cases h : Kind.all.find? fun j => c.code j == c.code k && c.has j with
  | none =>
    have := List.find?_eq_none.1 h k (Kind.mem_all k)
    simp [hk] at this
  | some j =>
    have h1 := List.find?_some h
    simp only [Bool.and_eq_true, beq_iff_eq] at h1
    exact congrArg some (List.inj_on_of_nodup_map hd (Kind.mem_all j) (Kind.mem_all k) h1.1)

namespace Machine

/-- What the start handler of a command does: it installs its row of the table and initialises working registers. -/
theorem exec_command (k : Kind) (s : State) : ∃ t, exec (k.instr .command) s = .next t ∧
    t = { s with
      dh := (startRow k).1, sh := (startRow k).2
      ucnt := t.ucnt, urHave := t.urHave, ldPending := t.ldPending, ldIdx := t.ldIdx, cur := t.cur, col := t.col } := by
  cases k <;> exact ⟨_, rfl, rfl⟩

/-- A payload byte of a command is what its data handler does with the byte. -/
theorem exec_data (k : Kind) (b : Byte) (s : State) : exec (k.instr (.data b)) s = runData (startRow k).1 b s := by
  cases k <;> rfl

/-- The frame stop of a command is what its stop handler does. -/
theorem exec_stop (k : Kind) (s : State) : exec (k.instr .stop) s = runStop (startRow k).2 s := by
  cases k <;> rfl

theorem decodeCommand_data {c : Config} {b : Byte} (h : classify b = .data) :
    decodeCommand c b = match kindOf c (b.setWidth 7) with
      | some k => .ok (k.instr .command)
      | none => .error (.unknownCommand b) := by
  cases hk : kindOf c (b.setWidth 7) <;> simp [decodeCommand, h, hk]

/-- A command byte installs the handlers of R128 and initialises working registers. -/
theorem startHandler_eq {b : Byte} (h : classify b = .data) (s : State) : ∃ t, startHandler b s = .next t ∧
    t = { s with
      dh := (handlersOf s.cfg (b.setWidth 7)).1, sh := (handlersOf s.cfg (b.setWidth 7)).2
      ucnt := t.ucnt, urHave := t.urHave, ldPending := t.ldPending, ldIdx := t.ldIdx, cur := t.cur, col := t.col } := by
  unfold startHandler handlersOf
  rw [decodeCommand_data h]
  cases kindOf s.cfg (b.setWidth 7) with
  | none => exact ⟨_, rfl, rfl⟩
  | some k => exact exec_command k s

/-- A data handler completes unless it is a rectangular load to host memory without a size (R205). -/
theorem runData_total {dh : DataHandler} {b : Byte} {s : State}
    (h : ∀ rect, dh = .load .mem rect → rect = true → s.ldPending ≠ 0 → s.rectSize ≠ 0) :
    ∃ t, runData dh b s = .next t := by
  cases dh with
  | nop => exact ⟨_, rfl⟩
  | updMask => exact ⟨_, rfl⟩
  | updReg bank => exact ⟨_, rfl⟩
  | load t rect =>
    cases t with
    | record r => exact ⟨_, loadByte_record r rect b s⟩
    | mem =>
      simp only [runData, loadByte]
      split
      · exact ⟨_, rfl⟩
      · exact advance_total (fun hr => h rect rfl hr ‹_›)

theorem stepByte_frameStart (s : State) :
    stepByte 0xF0#8 s = .next { s with dh := .nop, sh := .nop, fstate := .awaitManuf } := rfl

theorem stepByte_frameStop (s : State) : stepByte 0xF7#8 s = frameStop s := rfl

theorem stepByte_data {b : Byte} (h : classify b = .data) (s : State) : stepByte b s = dataByte b s := by
  unfold stepByte; rw [h]

theorem stepByte_realTime {b : Byte} (h : classify b = .realTime) (s : State) : stepByte b s = .next s := by
  unfold stepByte; rw [h]

/-- A step waits, or takes the front byte of RXQ. -/
theorem step_eq (s : State) : step s =
    match s.plat.rxq with
    | [] => .next { s with rxpend := false }
    | b :: rest => stepByte b { s with rxpend := false, plat := { s.plat with rxq := rest } } := by
  unfold step engineStep rxByte look
  cases h : s.plat.rxq <;> rfl

/-- All a byte can do (R120): frame start, frame stop, a real-time byte, and a data byte in each framer state. -/
theorem stepByte_cases {b : Byte} {s t : State} (h : stepByte b s = .next t) :
    (b = 0xF0#8 ∧ t = frameStart s) ∨
    (b = 0xF7#8 ∧ ∃ u, runStop s.sh s = .next u ∧ t = endFrame u) ∨
    (classify b = .realTime ∧ t = s) ∨
    (classify b = .data ∧ s.fstate = .idle ∧ t = s) ∨
    (classify b = .data ∧ s.fstate = .awaitManuf ∧
      t = { s with fstate := if b = s.cfg.manufId.setWidth 8 then .dispatch else .idle }) ∨
    (classify b = .data ∧ s.fstate = .dispatch ∧ t = { s with
      fstate := .data, cmd := b.setWidth 7
      dh := (handlersOf s.cfg (b.setWidth 7)).1, sh := (handlersOf s.cfg (b.setWidth 7)).2
      ucnt := t.ucnt, urHave := t.urHave, ldPending := t.ldPending, ldIdx := t.ldIdx, cur := t.cur, col := t.col } ∧
      ∃ u, startHandler b { s with cmd := b.setWidth 7 } = .next u ∧ t = { u with fstate := .data }) ∨
    (classify b = .data ∧ s.fstate = .data ∧ runData s.dh b s = .next t) := by
  cases hc : classify b with
  | frameStart =>
    obtain rfl := classify_frameStart.1 hc
    cases h; exact .inl ⟨rfl, rfl⟩
  | frameStop =>
    obtain rfl := classify_frameStop.1 hc
    obtain ⟨u, h1, h2⟩ := andThen_eq_next.1 h
    cases h2; exact .inr (.inl ⟨rfl, u, h1, rfl⟩)
  | realTime =>
    rw [stepByte_realTime hc] at h
    cases h; exact .inr (.inr (.inl ⟨rfl, rfl⟩))
  | data =>
    refine .inr (.inr (.inr ?_))
    rw [stepByte_data hc] at h
    unfold dataByte at h
    cases hf : s.fstate <;> simp only [hf] at h
    · cases h; exact .inl ⟨rfl, rfl, rfl⟩
    · cases h; exact .inr (.inl ⟨rfl, rfl, rfl⟩)
    · obtain ⟨u, h1, h2⟩ := andThen_eq_next.1 h
      obtain ⟨w, h3, h4⟩ := startHandler_eq hc { s with cmd := b.setWidth 7 }
      rw [h1] at h3
      cases h3; cases h2
      refine .inr (.inr (.inl ⟨rfl, rfl, ?_, u, hf ▸ h1, rfl⟩))
      rw [h4]
    · exact .inr (.inr (.inr ⟨rfl, rfl, h⟩))

end Machine
end Sys2Proof
end

