-- ==== Sys2Proof/Laws/PerInstr.lean ====
section
/-! SUPPORT. The laws of the instruction set as syntax, one lemma a constructor: an instruction is rebuilt from its
kind and its frame part, so nothing of it is lost between the wire and exec (30_encoding.md R95). -/

namespace Sys2Proof.Laws.Rebuild

/-- An instruction is its kind and its frame part. -/
def Statement (i : Instr) : Prop := i.kind.instr i.part = i

theorem start (p : FramePart) : Statement (.start p) := rfl
theorem stop (p : FramePart) : Statement (.stop p) := rfl
theorem update (p : FramePart) : Statement (.update p) := rfl
theorem update2 (p : FramePart) : Statement (.update2 p) := rfl
theorem updateBoth (p : FramePart) : Statement (.updateBoth p) := rfl
theorem run (p : FramePart) : Statement (.run p) := rfl
theorem load (p : FramePart) : Statement (.load p) := rfl
theorem addr (p : FramePart) : Statement (.addr p) := rfl
theorem loadRect (p : FramePart) : Statement (.loadRect p) := rfl
theorem addrRect (p : FramePart) : Statement (.addrRect p) := rfl
theorem fill (p : FramePart) : Statement (.fill p) := rfl
theorem fillRect (p : FramePart) : Statement (.fillRect p) := rfl
theorem copy (p : FramePart) : Statement (.copy p) := rfl
theorem copyRect (p : FramePart) : Statement (.copyRect p) := rfl
theorem dmaStash (p : FramePart) : Statement (.dmaStash p) := rfl
theorem dmaFetch (p : FramePart) : Statement (.dmaFetch p) := rfl
theorem dmaFill (p : FramePart) : Statement (.dmaFill p) := rfl
theorem dmaStashRect (p : FramePart) : Statement (.dmaStashRect p) := rfl
theorem dmaFetchRect (p : FramePart) : Statement (.dmaFetchRect p) := rfl
theorem dmaFillRect (p : FramePart) : Statement (.dmaFillRect p) := rfl
theorem updateReg (p : FramePart) : Statement (.updateReg p) := rfl
theorem updateReg2 (p : FramePart) : Statement (.updateReg2 p) := rfl

end Sys2Proof.Laws.Rebuild
end

