-- ==== Sys2Proof/Laws/Step.lean ====
section
/-! SUPPORT. All a stop handler and all a data handler can do when they answer a next state, said once
(40_framer_dispatch.md R132, R133). -/

namespace Sys2Proof.Machine

/-- All a stop handler can do: which fields it may write, and only which handler writes each. -/
theorem runStop_eq {sh : StopHandler} {s t : State} (h : runStop sh s = .next t) :
    t = { s with
      cur := t.cur, col := t.col, dcur := t.dcur, dmaCount := t.dmaCount, fillCount := t.fillCount
      copyFrom := t.copyFrom, copyCount := t.copyCount, shadow := t.shadow
      plat := { t.plat with rxq := s.plat.rxq } } ∧
    (t.shadow ≠ s.shadow → ∃ sel, sh = .updCommit sel) ∧
    (t.cur ≠ s.cur ∨ t.col ≠ s.col →
      (∃ rect, sh = .fill rect) ∨ (∃ rect, sh = .copy rect) ∨ ∃ dir mode rect, sh = .dma dir mode rect) ∧
    (t.dcur ≠ s.dcur → ∃ dir mode rect, sh = .dma dir mode rect) ∧
    (t.dmaCount ≠ s.dmaCount → ∃ dir mode rect, sh = .dma dir mode rect) ∧
    (t.fillCount ≠ s.fillCount → ∃ rect, sh = .fill rect) ∧
    (t.copyFrom ≠ s.copyFrom ∨ t.copyCount ≠ s.copyCount → ∃ rect, sh = .copy rect) ∧
    (t.plat.hostMem ≠ s.plat.hostMem → (∃ rect, sh = .fill rect) ∨ (∃ rect, sh = .copy rect) ∨
      (∃ mode rect, sh = .dma .fetch mode rect) ∨ sh = .run) ∧
    (t.plat.devMem ≠ s.plat.devMem → (∃ mode rect, sh = .dma .stash mode rect) ∨ sh = .run) ∧
    (t.plat.chip0 ≠ s.plat.chip0 ∨ t.plat.chip1 ≠ s.plat.chip1 →
      (∃ sel, sh = .updCommit sel) ∨ (∃ bank, sh = .flush bank) ∨ sh = .run) ∧
    (t.plat.released ≠ s.plat.released → sh = .run ∧ t.plat.released = true) ∧
    (t.plat.devLen = s.plat.devLen ∨ t.plat.devLen = s.plat.lengthAfter ∨ t.plat.devLen = .unknown) := by
  cases sh with
  | nop => cases h; simp
  | play x => cases h; simp [play, emit]
  | updCommit sel =>
    cases h
    refine ⟨?_, ?_⟩
    · exact (updCommit_eq sel s).trans (by rw [updCommit_eq])
    · rw [updCommit_eq]; simp
  | flush bank => cases h; rw [flush_eq]; simp
  | fill rect => rw [fillLoop_eq h]; simp [cursorInit]
  | copy rect => rw [copyLoop_eq h]; simp [cursorInit]
  | dma dir mode rect =>
    obtain ⟨h, h2, h3, h4⟩ := dmaLoop_eq h
    rw [h] at h2 h3 h4
    rw [h]
    simp [cursorInit] at *
    refine ⟨?_, ?_, ?_⟩
    · intro hn
      cases dir
      · exact absurd (h3 rfl) hn
      · rfl
    · intro hn
      cases dir
      · rfl
      · exact absurd (h4 rfl) hn
    · exact h2.imp_right .inl
  | run =>
    cases h
    have h : ∃ p, runBuffer s = { s with plat := p } ∧ p.rxq = s.plat.rxq ∧
        (p.released ≠ s.plat.released → p.released = true) ∧
        (p.devLen = s.plat.devLen ∨ p.devLen = s.plat.lengthAfter ∨ p.devLen = .unknown) := by
      unfold runBuffer
      split
      · exact ⟨_, rfl, rfl, fun _ => rfl, .inr (.inr rfl)⟩
      · exact ⟨s.plat, rfl, rfl, by simp, .inl rfl⟩
    obtain ⟨p, h, h2, h3, h4⟩ := h
    rw [h]
    simp [← h2]
    exact ⟨h3, h4⟩

/-- All a data handler can do: which fields it may write, and only which handler writes each. -/
theorem runData_eq {dh : DataHandler} {b : Byte} {s t : State} (h : runData dh b s = .next t) :
    t = { s with
      shadow := t.shadow, ubuf := t.ubuf, ucnt := t.ucnt, urHave := t.urHave, urIdx := t.urIdx
      ldMask := t.ldMask, ldPending := t.ldPending, ldIdx := t.ldIdx, cur := t.cur, col := t.col
      bufAddr := t.bufAddr, dmaDevAddr := t.dmaDevAddr, dmaCount := t.dmaCount
      rectStart := t.rectStart, rectSize := t.rectSize, rectInc := t.rectInc
      fillValue := t.fillValue, fillCount := t.fillCount, copyFrom := t.copyFrom, copyCount := t.copyCount
      plat := { s.plat with events := t.plat.events, hostMem := t.plat.hostMem } } ∧
    (t.shadow ≠ s.shadow → ∃ bank, dh = .updReg bank) ∧
    (t.ubuf ≠ s.ubuf ∨ t.ucnt ≠ s.ucnt → dh = .updMask) ∧
    (t.urHave ≠ s.urHave ∨ t.urIdx ≠ s.urIdx → ∃ bank, dh = .updReg bank) ∧
    (t.ldMask ≠ s.ldMask ∨ t.ldPending ≠ s.ldPending → ∃ target rect, dh = .load target rect) ∧
    (t.ldIdx ≠ s.ldIdx → ∃ r rect, dh = .load (.record r) rect) ∧
    (t.cur ≠ s.cur ∨ t.col ≠ s.col → ∃ rect, dh = .load .mem rect) ∧
    (t.bufAddr ≠ s.bufAddr ∨ t.dmaDevAddr ≠ s.dmaDevAddr ∨ t.dmaCount ≠ s.dmaCount →
      ∃ rect, dh = .load (.record .addr) rect) ∧
    (t.rectStart ≠ s.rectStart ∨ t.rectSize ≠ s.rectSize ∨ t.rectInc ≠ s.rectInc →
      ∃ rect, dh = .load (.record .rect) rect) ∧
    (t.fillValue ≠ s.fillValue ∨ t.fillCount ≠ s.fillCount → ∃ rect, dh = .load (.record .fill) rect) ∧
    (t.copyFrom ≠ s.copyFrom ∨ t.copyCount ≠ s.copyCount → ∃ rect, dh = .load (.record .copy) rect) ∧
    (t.plat.hostMem ≠ s.plat.hostMem → ∃ rect, dh = .load .mem rect) := by
  cases dh with
  | nop => cases h; simp
  | updMask => cases h; rw [updCollect_eq]; simp
  | updReg bank => cases h; rw [regByte_eq]; simp
  | load x rect =>
    cases x with
    | mem => rw [loadByte_mem_eq h]; simp
    | record r =>
      simp only [runData, loadByte_record] at h
      split at h
      · cases h; simp
      · cases h
        rw [storeRec_eq]
        generalize hs : { s with ldMask := s.ldMask >>> 1, ldPending := s.ldPending - 1 } = u
        have hsu : s = { u with ldMask := s.ldMask, ldPending := s.ldPending } := by rw [← hs]
        refine ⟨by rw [← hs], ?_⟩
        simp only
        rw [hsu]
        simp only
        unfold storeRec
        split
        · cases r <;> simp [setRecordByte, setAddrByte, setRectByte, setFillByte, setCopyByte] <;> split <;> simp
        · simp

end Sys2Proof.Machine
end

