-- ==== Sys2Proof/Tests/Slice0.lean ====
section
/-! SUPPORT. The model's own tests: well-formedness, decoding of words written out from spec/opcode_table.json, one
step or one handler of every command against the worked examples of 95_test_vectors.md (named in each comment), and a
witness for the hypotheses of every statement. -/

open Sys2Proof Sys2Proof.Machine

namespace Sys2Proof.Tests

/-- What f sees in the next state, if there is one. -/
def seen {α : Type} (f : State → α) : Result → Option α
  | .next s => some (f s)
  | .fault _ | .refused _ => none

/-- The state after reset with some bytes received. -/
def received (bs : List Byte) (s : State) : State := { s with plat := { s.plat with rxq := bs } }

/-- An engine inside a frame of kind k. -/
def inFrame (k : Kind) (s : State) : State :=
  { s with fstate := .data, cmd := s.cfg.code k, dh := (startRow k).1, sh := (startRow k).2 }

/-- The reset state with the first bytes of a bitmask payload collected. -/
def collected (payload : List Septet) : State :=
  { State.reset with
    ubuf := Vector.ofFn fun i : Fin 36 => payload.getD i.val 0
    ucnt := BitVec.ofNat 6 payload.length }

/-- BUFADDR, DMA_DEVADDR and DMA_COUNT, and the rectangle of start 4, size 2, inc 1 (the set-up of VD7 to VD17). -/
def small (count : BitVec 16) : State :=
  { State.reset with
    bufAddr := 0x2000, dmaDevAddr := 0x10, dmaCount := count, rectStart := 4, rectSize := 2, rectInc := 1 }

def withHost (m : Memory) (s : State) : State := { s with plat := { s.plat with hostMem := m } }
def withDevice (m : Memory) (s : State) : State := { s with plat := { s.plat with devMem := m } }

/-! ### Well-formedness: each check refuses an ill-formed term -/

theorem test_data_byte_has_bit7_clear : (Instr.load (.data 0x80)).wf = false := by decide
theorem test_data_byte_wf : (Instr.load (.data 0x7F)).wf = true := by decide
theorem test_frame_refuses_bit7 : Frame.wf ⟨.addr, [0x00, 0x80]⟩ = false := by decide
theorem test_legal_refuses_bit7 : Frame.legal ⟨.addr, [0x00, 0x80]⟩ = false := by decide
theorem test_legal_refuses_payload_of_none : Frame.legal ⟨.run, [0x01]⟩ = false := by decide
theorem test_legal_refuses_short_bitmask : Frame.legal ⟨.update, [0, 0, 0, 0, 0, 0, 0]⟩ = false := by decide
/-- VB7: two mask bits, one value. -/
theorem test_legal_refuses_missing_value : Frame.legal ⟨.update, [3, 0, 0, 0, 0, 0, 0, 0, 0x11]⟩ = false := by decide
/-- VB5. -/
theorem test_legal_bitmask :
    Frame.legal ⟨.update, [0, 0, 0, 0x48, 0, 0, 0, 0x40, 0x11, 0x11]⟩ = true := by decide
/-- VP5. -/
theorem test_legal_refuses_half_pair : Frame.legal ⟨.updateReg, [1, 0x11, 2]⟩ = false := by decide

/-! ### Decoding: the words of spec/opcode_table.json, bit by bit -/

theorem test_decode_start : decodeTableWord 8 0b01001100 = some (.start .command) := by decide
theorem test_decode_stop : decodeTableWord 8 0b01001101 = some (.stop .command) := by decide
theorem test_decode_update : decodeTableWord 8 0b01001110 = some (.update .command) := by decide
theorem test_decode_update2 : decodeTableWord 8 0b01010000 = some (.update2 .command) := by decide
theorem test_decode_updateBoth : decodeTableWord 8 0b01010001 = some (.updateBoth .command) := by decide
theorem test_decode_run : decodeTableWord 8 0b01010010 = some (.run .command) := by decide
theorem test_decode_load : decodeTableWord 8 0b01010011 = some (.load .command) := by decide
theorem test_decode_addr : decodeTableWord 8 0b01010100 = some (.addr .command) := by decide
theorem test_decode_loadRect : decodeTableWord 8 0b01010101 = some (.loadRect .command) := by decide
theorem test_decode_addrRect : decodeTableWord 8 0b01010110 = some (.addrRect .command) := by decide
theorem test_decode_fill : decodeTableWord 8 0b01010111 = some (.fill .command) := by decide
theorem test_decode_fillRect : decodeTableWord 8 0b01011000 = some (.fillRect .command) := by decide
theorem test_decode_copy : decodeTableWord 8 0b01011001 = some (.copy .command) := by decide
theorem test_decode_copyRect : decodeTableWord 8 0b01011010 = some (.copyRect .command) := by decide
theorem test_decode_dmaStash : decodeTableWord 8 0b01011011 = some (.dmaStash .command) := by decide
theorem test_decode_dmaFetch : decodeTableWord 8 0b01011100 = some (.dmaFetch .command) := by decide
theorem test_decode_dmaFill : decodeTableWord 8 0b01011101 = some (.dmaFill .command) := by decide
theorem test_decode_dmaStashRect : decodeTableWord 8 0b01011110 = some (.dmaStashRect .command) := by decide
theorem test_decode_dmaFetchRect : decodeTableWord 8 0b01011111 = some (.dmaFetchRect .command) := by decide
theorem test_decode_dmaFillRect : decodeTableWord 8 0b01100000 = some (.dmaFillRect .command) := by decide
theorem test_decode_updateReg : decodeTableWord 8 0b01101100 = some (.updateReg .command) := by decide
theorem test_decode_updateReg2 : decodeTableWord 8 0b01101101 = some (.updateReg2 .command) := by decide
theorem test_decode_unknown : decodeTableWord 8 0b01001111 = none := by decide
theorem test_decode_status_byte : decodeTableWord 8 0b11001100 = none := by decide

/-- The frame of VB13, with a real-time byte inside, and what follows it. -/
theorem test_decode_frame :
    decodeFrame Config.standard [0xF0, 0x2D, 0x4E, 0x01, 0xF8, 0x00, 0xF7, 0x11] =
      .ok (⟨.update, [0x01, 0x00]⟩, [0x11]) := by decide
theorem test_decode_frame_foreign :
    decodeFrame Config.standard [0xF0, 0x7D, 0x4C, 0xF7] = .error (.foreignManufacturer 0x7D) := by decide

/-- The table of SE2, its row of 7 bytes. -/
theorem test_pack7 : pack7 [0xFF, 0x00, 0x80, 0x7F, 0xC3, 0x3C, 0xA5] =
    [0x55, 0x7F, 0x00, 0x00, 0x7F, 0x43, 0x3C, 0x25] := by decide
/-- The table of SE2, its row of 8 bytes. -/
theorem test_unpack7 : unpack7 [0x2C, 0x00, 0x7F, 0x00, 0x7F, 0x55, 0x2A, 0x01, 0x01, 0x7E] =
    [0x00, 0x7F, 0x80, 0xFF, 0x55, 0xAA, 0x01, 0xFE] := by decide

theorem test_codes_distinct : Config.standard.codesDistinct := by decide
theorem test_regmap_aliases : Config.standard.regmapAliases := by decide
theorem test_reset_memory_wf : Memory.wf (2 ^ 16) State.reset.plat.hostMem := by decide

/-! ### The framer (40_framer_dispatch.md) -/

/-- VF13. -/
theorem test_step_frame_start :
    seen (fun t => (t.fstate, t.plat.rxq)) (step (received [0xF0, 0x2D] State.reset)) =
      some (.awaitManuf, [0x2D]) := by decide
/-- VF14. -/
theorem test_step_manufacturer :
    seen State.fstate (step (received [0x2D] { State.reset with fstate := .awaitManuf })) = some .dispatch := by decide
/-- VF12. -/
theorem test_step_command :
    seen (fun t => (t.fstate, t.cmd, t.sh)) (step (State.reset.withFetchWord 8 0x4C)) =
      some (.data, 0x4C, .play .start) := by decide
/-- VF1: a stray stop does nothing. -/
theorem test_step_stray_stop : seen (fun t => (t.fstate, t.plat.events)) (step (received [0xF7] State.reset)) =
    some (.idle, []) := by decide
theorem test_conditions_stray : conditions 0xF7 State.reset = [.eStrayStop] := by decide
/-- RXQ empty: the engine waits, and its look clears RXPEND. -/
theorem test_step_waits : step { State.reset with rxpend := true } = .next State.reset := rfl

/-- R301: a byte that was known before the reset input is not known after it. -/
theorem test_reset_forgets :
    (resetInput (received [0xF0] (withHost [(0x2000, 0x11)] (small 4)))).hostKnown 0x2000 = none ∧
    (resetInput (received [0xF0] (withHost [(0x2000, 0x11)] (small 4)))).plat.rxq = [0xF0] := by decide

/-! ### One handler of every command -/

/-- VF3. -/
theorem test_start : seen (fun t => t.plat.events) (exec (.start .stop) State.reset) = some [.play .start] := by decide
/-- VF4. -/
theorem test_stop : seen (fun t => t.plat.events) (exec (.stop .stop) State.reset) = some [.play .stop] := by decide

/-- VB4: ids 22 and 25 both land on offset 4, and the later value stays. -/
theorem test_update_alias :
    seen (fun t => (shadowAt t 0 4, t.plat.events.length, t.ucnt))
      (exec (.update .stop) (collected [0, 0, 0, 0x12, 0, 0, 0, 0, 0x41, 0x40])) = some (0x40, 25, 10) := by decide
/-- VB7: a wrong length is dropped whole. -/
theorem test_update_dropped :
    exec (.update .stop) (collected [3, 0, 0, 0, 0, 0, 0, 0, 0x11]) =
      .next (collected [3, 0, 0, 0, 0, 0, 0, 0, 0x11]) := rfl
/-- VB2: the high bit comes from the msb group; chip 0 is untouched. -/
theorem test_update2 :
    seen (fun t => (shadowAt t 1 0, shadowAt t 0 0, t.chipKnown 1 0, t.chipKnown 0 0))
      (exec (.update2 .stop) (collected [1, 0, 0, 0, 1, 0, 0, 0, 0x34])) =
      some (0xB4, 0, some 0xB4, none) := by decide
set_option maxRecDepth 4000 in
/-- VB14: UPDATE_BOTH flushes bank 0 to both chips and leaves bank 1. -/
theorem test_updateBoth :
    seen (fun t => (shadowAt t 1 1, t.plat.events.head?, t.plat.events[25]?))
      (exec (.updateBoth .stop) (setShadow 1 1 0x55 (collected [1, 0, 0, 0, 0, 0, 0, 0, 0x34]))) =
      some (0x55, some (.chipWrite 0 0 0x34), some (.chipWrite 1 0 0x34)) := by decide

/-- VP1: index byte 58 is id 24 with the flag, offset 18. -/
theorem test_updateReg :
    seen (fun t => (shadowAt t 0 18, t.urHave))
      (exec (.updateReg (.data 0x0F)) { State.reset with urHave := true, urIdx := 0x58 }) =
      some (0x8F, false) := by decide
/-- VP4: id 28 selects nothing. -/
theorem test_updateReg_range :
    exec (.updateReg (.data 0x11)) { State.reset with urHave := true, urIdx := 0x1C } =
      .next { State.reset with urIdx := 0x1C } := rfl
/-- VP2. -/
theorem test_updateReg2 :
    seen (fun t => (shadowAt t 1 0, shadowAt t 0 0))
      (exec (.updateReg2 (.data 0x7F)) { State.reset with urHave := true }) = some (0x7F, 0) := by decide
/-- VP6: an empty frame still flushes, to chip 1 here. -/
theorem test_updateReg2_flush :
    seen (fun t => (t.plat.events.length, t.plat.events.head?, t.plat.events.getLast?))
      (exec (.updateReg2 .stop) State.reset) =
      some (25, some (.chipWrite 1 0 0), some (.chipWrite 1 24 0)) := by decide

/-- VX1. -/
theorem test_run : seen (fun t => (t.plat.events, t.bufAddr)) (exec (.run .stop) (small 4)) =
    some ([.exec 0x2000], 0x2000) := by decide
/-- R262, U6: after Exec no chip register has a value, though before it chip 0 had the byte written. -/
theorem test_run_chips :
    (memWrite 0 0 (chipWrite 0 3 0x55 State.reset)).plat.chipReg Config.standard 0 3 = some 0x55 ∧
    (execHost 0 (chipWrite 0 3 0x55 State.reset)).plat.chipReg Config.standard 0 3 = none := by decide
/-- VX6. -/
theorem test_run_disabled :
    exec (.run .stop) { small 4 with cfg := { Config.standard with execEnable := false } } =
      .next { small 4 with cfg := { Config.standard with execEnable := false } } := rfl

/-- VL3, its step on byte 29. -/
theorem test_load :
    seen (fun t => (t.plat.events, t.ldMask, t.ldPending, t.cur))
      (exec (.load (.data 0x29)) { State.reset with ldMask := 5, ldPending := 7, cur := 0x2000 }) =
      some ([.memWrite 0x2000 0xA9], 2, 6, 0x2001) := by decide
/-- VL4: the cursor wraps past FFFF. -/
theorem test_load_wraps :
    seen (fun t => (t.hostKnown 0xFFFF, t.cur))
      (exec (.load (.data 0x7F)) { State.reset with ldMask := 1, ldPending := 4, cur := 0xFFFF }) =
      some (some 0xFF, 0) := by decide
/-- VL2, its byte 3: bits 15..8 of DMA_DEVADDR. -/
theorem test_addr :
    seen (fun t => (t.dmaDevAddr, t.ldIdx))
      (exec (.addr (.data 0x34)) { State.reset with ldPending := 4, ldIdx := 3, dmaDevAddr := 0x56 }) =
      some (0x3456, 4) := by decide
/-- VL2a: a byte beyond the record is dropped. -/
theorem test_addr_overrun :
    seen (fun t => (recordBytes t .addr, t.ldIdx))
      (exec (.addr (.data 0x19)) { small 4 with ldPending := 7, ldMask := 3, ldIdx := 7 }) =
      some ([0x00, 0x20, 0x10, 0, 0, 4, 0], 7) := by decide
/-- VR4: the second byte of a row of two ends it. -/
theorem test_loadRect_row_end :
    seen (fun t => (t.plat.events, t.cur, t.col))
      (exec (.loadRect (.data 2))
        { State.reset with
          ldPending := 6, cur := 0x0401, col := 1, rectStart := 0x28, rectSize := 2, rectInc := 1 }) =
      some ([.memWrite 0x0401 2], 0x0428, 2) := by decide
/-- VR8: without a size there is no result. -/
theorem test_loadRect_no_size :
    seen State.cur (exec (.loadRect (.data 1)) { State.reset with ldPending := 7 }) = none := by decide
/-- VR2c, its byte 2. -/
theorem test_addrRect :
    seen (fun t => (t.rectInc, rectSkip t))
      (exec (.addrRect (.data 0x7F))
        { State.reset with ldPending := 5, ldMask := 1, ldIdx := 2, rectStart := 0xFF, rectSize := 1 }) =
      some (0xFF, 0xFD02) := by decide
/-- VR2: start below size wraps. -/
theorem test_skip_wraps :
    rectSkip { State.reset with rectStart := 0x08, rectSize := 0x28, rectInc := 1 } = 0xFFE0 := by decide

/-- VC2: the address wraps. -/
theorem test_fill :
    seen (fun t => (t.plat.events, t.fillCount, t.cur))
      (exec (.fill .stop) { State.reset with bufAddr := 0xFFFE, fillValue := 0xE0, fillCount := 4 }) =
      some ([.memWrite 0xFFFE 0xE0, .memWrite 0xFFFF 0xE0, .memWrite 0 0xE0, .memWrite 1 0xE0], 0, 2) := by decide
/-- VC3. -/
theorem test_fillRect :
    seen (fun t => t.plat.events)
      (exec (.fillRect .stop)
        { State.reset with
          bufAddr := 0x0400, rectStart := 0x28, rectSize := 2, rectInc := 1, fillValue := 0x2A, fillCount := 4 }) =
      some [.memWrite 0x0400 0x2A, .memWrite 0x0401 0x2A, .memWrite 0x0428 0x2A, .memWrite 0x0429 0x2A] := by decide
/-- VC11, its first two bytes: an overlapping copy upward repeats the first byte. -/
theorem test_copy_overlap :
    seen (fun t => (t.plat.events, t.copyFrom))
      (exec (.copy .stop)
        (withHost [(0x2000, 0xAA), (0x2001, 0xBB)]
          { State.reset with bufAddr := 0x2001, copyFrom := 0x2000, copyCount := 2 })) =
      some ([.memRead 0x2000, .memWrite 0x2001 0xAA, .memRead 0x2001, .memWrite 0x2002 0xAA], 0x2002) := by decide
/-- VC10, its first three bytes. -/
theorem test_copyRect :
    seen (fun t => (t.hostKnown 0x0401, t.hostKnown 0x0428, t.copyCount, t.col))
      (exec (.copyRect .stop)
        (withHost [(0x2000, 1), (0x2001, 2), (0x2002, 3)]
          { State.reset with
            bufAddr := 0x0400, rectStart := 0x28, rectSize := 2, rectInc := 1, copyFrom := 0x2000
            copyCount := 3 })) =
      some (some 2, some 3, 0, 1) := by decide

/-- VD11: the transfers of a linear stash. -/
theorem test_dmaStash :
    seen (fun t => (t.plat.events, t.dmaCount))
      (exec (.dmaStash .stop) (withHost [(0x2000, 1), (0x2001, 2), (0x2002, 3), (0x2003, 4)] (small 4))) =
      some ([.dmaXfer .stash 2 0x2000 0x10, .dmaXfer .stash 2 0x2002 0x12], 0) := by decide
/-- R64: after a transfer the device has forgotten the length. -/
theorem test_dma_forgets :
    seen (fun t => t.plat.devLen) (exec (.dmaFetch .stop) (withDevice [(0x10, 7), (0x11, 8)] (small 2))) =
      some .forgotten := by decide
/-- VD17: a remainder of one byte has no meaning. -/
theorem test_dmaStash_misaligned : seen State.cur (exec (.dmaStash .stop) (small 5)) = none := by decide
/-- VD13. -/
theorem test_dmaFetch :
    seen (fun t => (t.plat.events, t.cur)) (exec (.dmaFetch .stop) (withDevice [(0x10, 7), (0x11, 8)] (small 2))) =
      some ([.dmaXfer .fetch 2 0x2000 0x10], 0x2002) := by decide
/-- VD9: one device row over and over. -/
theorem test_dmaFill :
    seen (fun t => t.plat.hostMem) (exec (.dmaFill .stop) (withDevice [(0x10, 0xA0), (0x11, 0xA1)] (small 6))) =
      some [(0x2000, 0xA0), (0x2001, 0xA1), (0x2002, 0xA0), (0x2003, 0xA1), (0x2004, 0xA0), (0x2005, 0xA1)] := by
  decide
/-- VD7: the rows of the rectangle are packed in the device. -/
theorem test_dmaStashRect :
    seen (fun t => t.plat.devMem)
      (exec (.dmaStashRect .stop)
        (withHost [(0x2000, 0x10), (0x2001, 0x11), (0x2002, 0x12), (0x2003, 0x13), (0x2004, 0x14), (0x2005, 0x15)]
          (small 4))) =
      some [(0x10, 0x10), (0x11, 0x11), (0x12, 0x14), (0x13, 0x15)] := by decide
/-- VD8. -/
theorem test_dmaFetchRect :
    seen (fun t => t.plat.hostMem)
      (exec (.dmaFetchRect .stop)
        (withDevice [(0x10, 0xA0), (0x11, 0xA1), (0x12, 0xA2), (0x13, 0xA3)] (small 4))) =
      some [(0x2000, 0xA0), (0x2001, 0xA1), (0x2004, 0xA2), (0x2005, 0xA3)] := by decide
/-- VD10, its first two rows. -/
theorem test_dmaFillRect :
    seen (fun t => (t.plat.events, t.hostKnown 0x2005))
      (exec (.dmaFillRect .stop) (withDevice [(0x10, 0xA0), (0x11, 0xA1)] (small 4))) =
      some ([.dmaXfer .fetch 2 0x2000 0x10, .dmaXfer .fetch 2 0x2004 0x10], some 0xA1) := by decide

/-! ### Witnesses: states and operands that meet the hypotheses of each statement, clause by clause -/

/-- An engine inside a rectangular load, in mid-row. -/
def loading : State := received [0x11] (inFrame .loadRect { small 4 with cur := 0x2000, col := 2, ldPending := 6 })

/-- The state after the byte 11 of `loading`. -/
def loaded : State :=
  received []
    { withHost [(0x2000, 0x11)] loading with
      cur := 0x2001, col := 1, ldPending := 5
      plat := { (withHost [(0x2000, 0x11)] loading).plat with events := [.memWrite 0x2000 0x11] } }

theorem loading_inv : loading.Inv where
  outside := by decide
  inside := by decide
  count := by decide
  index := by intro r rect h; cases h
  column := by decide
  host := by decide
  dev := by decide
  chip0 := by decide
  chip1 := by decide
  forgotten := by intro n h; cases h
  unknown := by intro h; cases h

theorem witness_ResetLeavesTheStateOfR300 : resetInput loading = resetInput loading ∨ resetInput loading = State.reset :=
  .inl rfl
theorem witness_ResetKeepsTheQueueAndKnowsNoMemory :
    resetInput loaded = resetInput loaded ∧ loaded.plat.keeps loaded.cfg 0x2000 = true := ⟨rfl, by decide⟩
theorem witness_EveryStepKeepsTheInvariant : loading.Inv ∧ step loading = .next loaded := ⟨loading_inv, by rfl⟩
theorem witness_StepTakesExactlyOneByte :
    loading.plat.rxq = 0x11 :: [] ∧ step loading = .next loaded ∧ State.reset.plat.rxq = [] := ⟨rfl, by rfl, rfl⟩

/-- The command byte, a payload byte and the frame stop. -/
theorem witness_StepRunsTheDecodedInstruction :
    (State.reset.withFetchWord 8 0x60).plat.rxq = 0x60 :: [] ∧
    (State.reset.withFetchWord 8 0x60).fstate = .dispatch ∧
    decodeAt Config.standard none 0x60 = .ok (.dmaFillRect .command) ∧
    loading.fstate = .data ∧ (loading.dh, loading.sh) = startRow .loadRect ∧
    decodeAt loading.cfg (some .loadRect) 0x11 = .ok (.loadRect (.data 0x11)) ∧
    decodeAt loading.cfg (some .loadRect) 0xF7 = .ok (.loadRect .stop) := by
  refine ⟨rfl, rfl, ?_, rfl, rfl, ?_, ?_⟩ <;> decide

/-- The clauses of the table: the lowest and the highest real-time byte, a data byte in each state. -/
theorem witness_FramerFollowsTheTransitionTable :
    (0x80#8).msb = true ∧ 0x80#8 ≠ 0xF0#8 ∧ 0x80#8 ≠ 0xF7#8 ∧ (0xFF#8).msb = true ∧ (0x7F#8).msb = false ∧
    State.reset.fstate = .idle ∧ State.reset.dh = .nop ∧ State.reset.sh = .nop ∧
    (0x2D#8) = State.reset.cfg.manufId.setWidth 8 ∧ 0x2E#8 ≠ State.reset.cfg.manufId.setWidth 8 ∧
    (State.reset.withFetchWord 8 0x4C).fstate = .dispatch ∧ loading.fstate = .data := by
  refine ⟨?_, ?_, ?_, ?_, ?_, rfl, rfl, rfl, ?_, ?_, rfl, rfl⟩ <;> decide

theorem witness_RealTimeBytesChangeNothing :
    classify 0x80 = .realTime ∧ classify 0xFF = .realTime ∧ classify 0xF1 = .realTime ∧
    (received [0xF8] loading).plat.rxq = 0xF8 :: [] := ⟨by decide, by decide, by decide, rfl⟩

/-- Two engines that differ in working registers only, and a frame that both run. -/
theorem witness_FrameStartMakesInterruptionsIrrelevant :
    sameButWorking loading { loading with ldPending := 0, ucnt := 9, cur := 0x1234 } ∧
    ∃ t, feed [0xF0, 0x2D, 0x4C, 0xF7] loading = .next t := ⟨rfl, _, rfl⟩

theorem witness_UnknownCommandIsConsumed :
    (State.reset.withFetchWord 8 0x4F).fstate = .dispatch ∧ classify 0x4F = .data ∧
    kindOf Config.standard 0x4F = none ∧ [0x01#8, 0x7F#8].all (fun x => !x.msb) = true := by
  refine ⟨rfl, ?_, ?_, ?_⟩ <;> decide

theorem witness_BytesThatArriveLaterOnlyWait : loading.plat.rxq ≠ [] ∧ step loading = .next loaded :=
  ⟨by decide, by rfl⟩

/-- Every kind of output occurs. -/
theorem witness_OutputsComeOnlyFromTheirHandlers :
    (∃ t, stepByte 0x11 loading = .next t ∧ t.plat.events = [.memWrite 0x2000 0x11]) ∧
    (∃ t, stepByte 0xF7 (inFrame .start State.reset) = .next t ∧ t.plat.events = [.play .start]) ∧
    (∃ t, stepByte 0xF7 (inFrame .run State.reset) = .next t ∧ t.plat.events = [.exec 0]) ∧
    (∃ t, stepByte 0xF7 (inFrame .updateReg State.reset) = .next t ∧
      t.plat.events.head? = some (.chipWrite 0 0 0)) ∧
    (∃ t, stepByte 0xF7 (inFrame .copy { small 0 with copyCount := 1 }) = .next t ∧
      t.plat.events.head? = some (.memRead 0)) ∧
    ∃ t, stepByte 0xF7 (inFrame .dmaStash (small 2)) = .next t ∧
      t.plat.events = [.dmaXfer .stash 2 0x2000 0x10] := by
  refine ⟨⟨_, rfl, ?_⟩, ⟨_, rfl, rfl⟩, ⟨_, rfl, rfl⟩, ⟨_, rfl, rfl⟩, ⟨_, rfl, rfl⟩, ⟨_, rfl, rfl⟩⟩
  rfl

/-- Registers of each kind do change. -/
theorem witness_RegistersChangeOnlyByTheirRules :
    (∃ t, stepByte 0x4C (State.reset.withFetchWord 8 0x4C) = .next t ∧ t.cmd ≠ 0 ∧ t.sh ≠ .nop) ∧
    (∃ t, stepByte 0x11 loading = .next t ∧ t.plat.hostMem ≠ []) ∧
    (∃ t, stepByte 0x7F (inFrame .addr { State.reset with ldPending := 7 }) = .next t ∧ t.bufAddr ≠ 0) ∧
    (∃ t, stepByte 0x7F (inFrame .updateReg { State.reset with urHave := true }) = .next t ∧
      t.shadow ≠ State.reset.shadow) ∧
    (∃ t, stepByte 0xF7 (inFrame .dmaStash (small 2)) = .next t ∧ t.dcur ≠ 0 ∧ t.cur ≠ 0) ∧
    ∃ t, stepByte 0xF7 (inFrame .run State.reset) = .next t ∧ t.plat.released = true := by
  refine ⟨⟨_, rfl, ?_, ?_⟩, ⟨_, rfl, ?_⟩, ⟨_, rfl, ?_⟩, ⟨_, rfl, ?_⟩, ⟨_, rfl, ?_, ?_⟩, ⟨_, rfl, rfl⟩⟩ <;> decide

theorem witness_DecodeOfEncodeIsTheInstruction :
    Config.standard.codesDistinct ∧ Config.standard.has (Instr.updateReg2 .command).kind = true ∧
    (Instr.updateReg2 .command).wf = true ∧ (Instr.load (.data 0x7F)).wf = true ∧ (Instr.start .stop).wf = true := by
  decide
theorem witness_DecodeFrameOfEncodeFrameIsTheFrame :
    Config.standard.codesDistinct ∧ Config.standard.has (Frame.kind ⟨.update, [1, 0x7F]⟩) = true ∧
    Frame.wf ⟨.update, [1, 0x7F]⟩ = true ∧ Frame.wf ⟨.update, []⟩ = true := by decide
theorem witness_WholeFrameRunsTheParts :
    loading.cfg.codesDistinct ∧ loading.cfg.has (Frame.kind ⟨.update, [1, 0x7F]⟩) = true ∧
    Frame.wf ⟨.update, [1, 0x7F]⟩ = true := by decide
/-- Groups of one byte and of seven. -/
theorem witness_UnpackOfPackIsTheBytes :
    [0xFF#8] ≠ [] ∧ [0xFF#8].length ≤ 7 ∧ [0#8, 1, 2, 3, 4, 5, 0x80].length = 7 ∧ 0 < [0xFF#8].length ∧
    [0xFF#8].length ≤ 1 := by decide
theorem witness_StartHandlersFollowTheTable :
    (0x4F#8).msb = false ∧ kindOf Config.standard 0x4F = none ∧
    ({ Config.standard with implemented := Vector.replicate 22 false } : Config).has .run = false := by decide
theorem witness_NoPayloadCommandsIgnoreDataBytes :
    Kind.start.family = .none ∧ Kind.dmaFillRect.family = .none ∧ kindOf Config.standard 0x4F = none ∧
    (inFrame .start State.reset).fstate = .data ∧ (inFrame .start State.reset).dh = .nop ∧
    [0x00#8, 0x7F#8].all (fun b => !b.msb) = true := by decide
theorem witness_RunHandsTheHostOver :
    ({ small 0 with cfg := { Config.standard with execEnable := false } } : State).cfg.execEnable = false ∧
    State.reset.cfg.execEnable = true := ⟨rfl, rfl⟩
theorem witness_AfterExecNothingOutsideIsKnown :
    (received [0xF0] (execHost 0 State.reset)).plat.released = true ∧
    (received [0xF0] (execHost 0 State.reset)).plat.devLen = .unknown ∧
    ∃ t, step (received [0xF0] (execHost 0 State.reset)) = .next t := ⟨rfl, rfl, _, rfl⟩

/-- The counts 35, 36 and 37. -/
theorem witness_UpdatePayloadIsCollected :
    (35#6).toNat < 36 ∧ 36 ≤ (36#6).toNat ∧ 36 ≤ (37#6).toNat := by decide
/-- Seven bytes; 37 bytes; one mask bit without its value; and a frame whose stop raises E_LEN. -/
theorem witness_MalformedUpdateIsDropped :
    malformedUpdate (collected [0, 0, 0, 0, 0, 0, 0]) ∧ malformedUpdate { State.reset with ucnt := 37 } ∧
    malformedUpdate (collected [1, 0, 0, 0, 0, 0, 0, 0]) ∧
    Cond.eLen ∈ conditions 0xF7 (inFrame .update (collected [1, 0, 0, 0, 0, 0, 0, 0])) ∧
    Cond.eLen ∉ conditions 0xF7 (inFrame .update (collected [0, 0, 0, 0, 0, 0, 0, 0])) := by
  unfold malformedUpdate; decide
/-- The shortest payload (VB6), the longest (VB9's masks), and two ids at one offset (VB4). -/
theorem witness_WellFormedUpdateIsDecodedAndFlushed :
    (∀ payload ∈ [List.replicate 8 0#7, List.replicate 36 0x7F#7, [0, 0, 0, 0x12, 0, 0, 0, 0, 0x41, 0x40]],
      8 ≤ (collected payload).ucnt.toNat ∧ (collected payload).ucnt.toNat ≤ 36 ∧
      (collected payload).ucnt.toNat =
        8 + (List.finRange 28).countP fun id => maskBit (collected payload).ubuf id) ∧
    maskBit (collected (List.replicate 36 0x7F)).ubuf 27 = true ∧
    maskBit (collected (List.replicate 8 0)).ubuf 0 = false := by decide
theorem witness_RepeatedUpdateChangesNothing :
    ∃ t u, exec (.update .stop) (collected [1, 0, 0, 0, 0, 0, 0, 0, 0x34]) = .next t ∧
      exec (.update .stop) t = .next u := ⟨_, _, rfl, rfl⟩
/-- Ids 27 and 28. -/
theorem witness_RegisterPairIsAppliedAtOnce :
    State.reset.urHave = false ∧ (27 : LogicalId).val = (0x5B#7).toNat % 64 ∧ 28 ≤ (0x5C#7).toNat % 64 ∧
    (inFrame .updateReg2 State.reset).fstate = .data ∧ (inFrame .updateReg2 State.reset).dh = .updReg 1 ∧
    (0x7F#8).msb = false := by decide
theorem witness_RegisterFrameFlushesItsBank :
    (inFrame .updateReg State.reset).fstate = .data ∧ (inFrame .updateReg State.reset).dh = .updReg 0 ∧
    (inFrame .updateReg State.reset).sh = .flush 0 ∧ State.reset.plat.released = false ∧
    State.reset.cfg.chip1Connected = true := by decide
theorem witness_MaskByteStartsAGroup :
    Kind.load.family = .packed ∧ Kind.copyRect.family = .packed ∧ State.reset.ldPending = 0 := by decide
/-- A linear load, a byte inside a row, and the last byte of a row. -/
theorem witness_LoadStoresTheDecodedByte :
    loading.ldPending ≠ 0 ∧ rectReady true 1 loading ∧ rectReady false 1 State.reset ∧ loading.col - 1 ≠ 0 ∧
    loaded.ldPending ≠ 0 ∧ loaded.col - 1 = 0 ∧ loading.plat.keeps loading.cfg loading.cur = true :=
  ⟨by decide, fun _ _ => by decide, fun h => (nomatch h), by decide, by decide, by decide, by decide⟩
/-- The last byte of the ADDR record, and one beyond it. -/
theorem witness_RecordLoadStoresTheDecodedByte :
    (Kind.addr, Record.addr) ∈ recordKinds ∧ (6#3).toNat < Record.addr.length ∧
    Record.addr.length ≤ (7#3).toNat ∧
    ({ inFrame .addr State.reset with ldPending := 1 } : State).ldPending ≠ 0 ∧
    (inFrame .addr State.reset).dh = .load (.record .addr) false := by decide
/-- Eight payload bytes, seven decoded ones, for a linear and a rectangular load just started and for a record load. -/
theorem witness_PayloadCarriesSevenEighths :
    [0x55#8, 0x7F, 0, 0, 0x7F, 0x43, 0x3C, 0x25].all (fun b => !b.msb) = true ∧
    (unpack7 [0x55, 0x7F, 0, 0, 0x7F, 0x43, 0x3C, 0x25]).length = 7 ∧
    (inFrame .load State.reset).fstate = .data ∧ (inFrame .load State.reset).ldPending = 0 ∧
    (inFrame .load State.reset).dh = .load .mem false ∧
    (inFrame .loadRect (cursorInit (small 4))).dh = .load .mem true ∧
    (inFrame .loadRect (cursorInit (small 4))).cur = (inFrame .loadRect (cursorInit (small 4))).bufAddr ∧
    (inFrame .loadRect (cursorInit (small 4))).col = (inFrame .loadRect (cursorInit (small 4))).rectSize ∧
    (inFrame .loadRect (cursorInit (small 4))).rectSize ≠ 0 ∧
    (inFrame .addrRect State.reset).dh = .load (.record .rect) false ∧ (inFrame .addrRect State.reset).ldIdx = 0 := by
  decide
/-- No size, with something to store. -/
def noSize : State := { State.reset with ldPending := 7, fillCount := 1, copyCount := 1 }
/-- No size, with something to store and with nothing. -/
theorem witness_RectangularStoreNeedsASize :
    noSize.rectSize = 0 ∧ noSize.ldPending ≠ 0 ∧ noSize.fillCount ≠ 0 ∧ noSize.copyCount ≠ 0 ∧
    State.reset.rectSize = 0 ∧
    State.reset.fillCount = 0 ∧ State.reset.copyCount = 0 ∧ (inFrame .loadRect State.reset).dh = .load .mem true ∧
    (inFrame .fillRect State.reset).sh = .fill true ∧ (inFrame .copyRect State.reset).sh = .copy true := by decide
theorem witness_RecordFrameReplacesTheLeadingBytes :
    State.reset.cfg.codesDistinct ∧ State.reset.cfg.has .addr = true ∧ State.reset.cfg.has .addrRect = true := by
  decide
/-- Linear; rectangular with a size; rectangular with nothing to store. -/
theorem witness_LoadFrameStoresItsBytes :
    State.reset.cfg.codesDistinct ∧ State.reset.cfg.has (loadKind true) = true ∧ rectReady false 3 State.reset ∧
    rectReady true 3 (small 4) ∧ rectReady true 0 State.reset :=
  ⟨by decide, by decide, fun h => (nomatch h), fun _ _ => by decide, fun _ h => absurd rfl h⟩
theorem witness_FillWritesItsCount :
    rectReady true ({ small 4 with fillCount := 5 } : State).fillCount.toNat { small 4 with fillCount := 5 } ∧
    rectReady true State.reset.fillCount.toNat State.reset := ⟨fun _ _ => by decide, fun _ h => absurd rfl h⟩
theorem witness_CopyMovesItsCount :
    5 = ({ small 4 with copyCount := 5 } : State).copyCount.toNat ∧ rectReady true 5 { small 4 with copyCount := 5 } ∧
    ({ small 4 with copyCount := 5 } : State).plainRam := ⟨rfl, fun _ _ => by decide, rfl, rfl⟩
/-- A distance of one, and the source itself. -/
theorem witness_OverlappingCopyRepeatsTheSource :
    State.reset.plainRam ∧
    1 = (({ State.reset with bufAddr := 0x2001, copyFrom := 0x2000 } : State).bufAddr -
      ({ State.reset with bufAddr := 0x2001, copyFrom := 0x2000 } : State).copyFrom).toNat ∧
    0 = (State.reset.bufAddr - State.reset.copyFrom).toNat := ⟨⟨rfl, rfl⟩, rfl, rfl⟩
theorem witness_DmaTransferMovesItsBytes : (small 4).plainRam := ⟨rfl, rfl⟩
/-- A multiple of the size, and a count of 0 without a size. -/
theorem witness_DmaIssuesItsChunks :
    (Kind.dmaFillRect, DmaDir.fetch, DmaMode.fixed, true) ∈ dmaKinds ∧ dmaReady (small 4) ∧
    2 = (small 4).dmaCount.toNat / (small 4).rectSize.toNat ∧ dmaReady State.reset :=
  ⟨by decide, fun _ => ⟨by decide, rfl⟩, rfl, fun h => absurd rfl h⟩
theorem witness_DmaCopiesItsRegion :
    (small 4).plainRam ∧ dmaReady (small 4) ∧
    ∀ j i : Fin 4, j < i →
      chunkHost true (small 4) (i / 2) + BitVec.ofNat 16 (i % 2) ≠
        chunkHost true (small 4) (j / 2) + BitVec.ofNat 16 (j % 2) :=
  ⟨⟨rfl, rfl⟩, fun _ => ⟨by decide, rfl⟩, by decide⟩
/-- No size; a remainder; nothing to move; whole chunks. -/
theorem witness_DmaStopsOnAViolatedPrecondition :
    ({ State.reset with dmaCount := 1 } : State).dmaCount ≠ 0 ∧
    ({ State.reset with dmaCount := 1 } : State).rectSize = 0 ∧
    (small 5).rectSize ≠ 0 ∧ (small 5).dmaCount.toNat % (small 5).rectSize.toNat ≠ 0 ∧
    State.reset.dmaCount = 0 ∧
    (small 4).rectSize ≠ 0 ∧ (small 4).dmaCount.toNat % (small 4).rectSize.toNat = 0 ∧
    (inFrame .dmaStash (small 5)).sh = .dma .stash .incr false := by decide
/-- A step that goes on, and one that does not. -/
theorem witness_OnlyThreeConditionsStopTheMachine :
    loading.Inv ∧ loading.plat.rxq = 0x11 :: [] ∧ Cond.eRectSize0 ∉ conditions 0x11 loading ∧
    Cond.eRectSize0 ∈ conditions 0x11 { loading with rectSize := 0 } := ⟨loading_inv, rfl, by decide, by decide⟩

end Sys2Proof.Tests
end

section
/-! SUPPORT. The registers (10_state.md): RXPEND decides nothing, RECT_SKIP as an integer, and which rule changes each
register. -/

namespace Sys2Proof.Machine

/-! ### What RXPEND decides -/

/-- Settles O12: a step clears RXPEND before it looks at anything else. -/
theorem stepNeverDependsOnRxpend : Obligations.StepNeverDependsOnRxpend := by
  intro s x
  rw [step_eq, step_eq]

/-! ### RECT_SKIP as an integer -/

/-- The bit-vector form of RECT_SKIP, read as an integer (R37). -/
theorem skipOf_toNat_int (start size inc : Byte) :
    ((skipOf start size inc).toNat : Int) = ((inc.toNat : Int) * (start.toNat - size.toNat)) % 65536 := by
  have hsub : ((start.setWidth 16 - size.setWidth 16).toNat : Int) = ((start.toNat : Int) - size.toNat) % 65536 := by
    simp only [BitVec.toNat_sub, BitVec.toNat_setWidth]
    omega
  have hinc : inc.toNat % 2 ^ 16 = inc.toNat := by omega
  rw [skipOf, BitVec.toNat_mul, BitVec.toNat_setWidth, hinc]
  push_cast
  rw [hsub]
  exact (Int.mod_modEq _ _).mul_left _

/-- Settles O38, from the integer reading of the registers' bit-vector form. -/
theorem skipIsIncTimesStartMinusSize : Obligations.SkipIsIncTimesStartMinusSize :=
  fun s => skipOf_toNat_int s.rectStart s.rectSize s.rectInc

/-! ### Which registers a byte changes -/

/-- What a start handler initialises: the working registers of the data handler it installs (R128). -/
structure StartWrites (s t : State) : Prop where
  ucnt : t.ucnt ≠ s.ucnt → t.dh = .updMask
  urHave : t.urHave ≠ s.urHave → ∃ bank, t.dh = .updReg bank
  ldPending : t.ldPending ≠ s.ldPending → ∃ target rect, t.dh = .load target rect
  ldIdx : t.ldIdx ≠ s.ldIdx → ∃ target rect, t.dh = .load target rect
  cursor : t.cur ≠ s.cur ∨ t.col ≠ s.col → ∃ rect, t.dh = .load .mem rect

theorem exec_command_writes {k : Kind} {s t : State} (h : exec (k.instr .command) s = .next t) : StartWrites s t := by
  cases k <;> cases h <;> constructor <;>
    simp [updStart, regStart, recordStart, loadStart, install, loaderReset, cursorInit]

theorem startHandler_writes {b : Byte} {s t : State} (hc : classify b = .data) (h : startHandler b s = .next t) :
    StartWrites s t := by
  unfold startHandler at h
  rw [decodeCommand_data hc] at h
  cases hk : kindOf s.cfg (b.setWidth 7) <;> rw [hk] at h
  case none => cases h; constructor <;> simp [install]
  case some k => exact exec_command_writes h

/-- A load handler stores in host memory or in a record. -/
theorem load_cases {dh : DataHandler} (h : ∃ target rect, dh = .load target rect) :
    (∃ rect, dh = .load .mem rect) ∨ ∃ r rect, dh = .load (.record r) rect := by
  obtain ⟨target, rect, rfl⟩ := h
  cases target with
  | mem => exact .inl ⟨rect, rfl⟩
  | record r => exact .inr ⟨r, rect, rfl⟩

/-- Settles O15, by the cases of a byte: frame stop writes what its stop handler writes, a data byte in DISPATCH what
its start handler initialises, a data byte in DATA what its data handler writes, and the others FSTATE, DH and SH. -/
theorem registersChangeOnlyByTheirRules : Obligations.RegistersChangeOnlyByTheirRules := by
  intro b s t h
  obtain ⟨rfl, rfl⟩ | ⟨rfl, u, hrun, rfl⟩ | ⟨-, rfl⟩ | ⟨-, -, rfl⟩ | ⟨hc, hf, rfl⟩ |
    ⟨hc, hf, ht, u, hstart, hu⟩ | ⟨hc, hf, hrun⟩ := stepByte_cases h
  -- frame start
  · simp [frameStart, install]
  -- frame stop
  · obtain ⟨hu, hshadow, hcur, hdcur, hdma, hfill, hcopy, hhost, hdev, hchip, hrel, -⟩ := runStop_eq hrun
    rw [hu]
    simp only [endFrame, install, ne_eq, not_true_eq_false, false_implies, or_self, true_and, true_or, or_true,
      implies_true]
    exact ⟨fun hne => .inl (hshadow hne), fun hne => .inr (.inr (hcur hne)), hdcur, fun hne => .inr (hdma hne),
      fun hne => .inr (hfill hne), fun hne => .inr (hcopy hne), fun hne => .inr (hhost hne), hdev, hchip, hrel⟩
  -- a real-time byte
  · simp
  -- a data byte in IDLE
  · simp
  -- a data byte in AWAIT_MANUF
  · simp [hc, hf]
  -- a data byte in DISPATCH
  · have hw : StartWrites s t := by
      obtain ⟨hcnt, hhave, hpend, hidx, hcur⟩ := startHandler_writes hc hstart
      rw [hu]
      exact ⟨hcnt, hhave, hpend, hidx, hcur⟩
    rw [ht] at hw ⊢
    simp only [hc, hf, ne_eq, not_true_eq_false, false_implies, or_self, true_and, true_or, or_true, implies_true,
      and_true]
    exact ⟨fun hne => .inr (hw.ucnt hne), fun hne => .inr (hw.urHave hne), fun hne => .inr (.inr (hw.ldPending hne)),
      fun hne => .inr (hw.ldIdx hne), fun hne => .inr (.inl (hw.cursor hne))⟩
  -- a data byte in DATA
  · obtain ⟨ht, hshadow, hubuf, hur, hmask, hidx, hcur, haddr, hrect, hfill, hcopy, hhost⟩ := runData_eq hrun
    rw [ht]
    simp only [hc, hf, ne_eq, not_true_eq_false, false_implies, or_self, true_and, and_true]
    exact ⟨fun hne => .inr (hshadow hne), fun hne => hubuf (.inl hne), fun hne => .inl (hubuf (.inr hne)),
      fun hne => .inl (hur (.inl hne)), fun hne => hur (.inr hne), fun hne => load_cases (hmask (.inl hne)),
      fun hne => (load_cases (hmask (.inr hne))).imp_right .inl, fun hne => .inl (hidx hne),
      fun hne => .inl (hcur hne), fun hne => haddr (hne.imp_right .inl), fun hne => .inl (haddr (.inr (.inr hne))),
      hrect, fun hne => hfill (.inl hne), fun hne => .inl (hfill (.inr hne)), fun hne => .inl (hcopy hne),
      fun hne => .inl (hhost hne)⟩

end Sys2Proof.Machine
end

section
/-! SUPPORT. The events a byte adds, and the handler each comes from (10_state.md R41; 20_memory.md R62 to R65). -/

namespace Sys2Proof.Machine

/-! ### The events an operation adds -/

/-- From s to t only events of P are added, after those of s. -/
def Adds (P : Event → Prop) (s t : State) : Prop :=
  ∃ new, t.plat.events = s.plat.events ++ new ∧ ∀ e ∈ new, P e

theorem Adds.of_eq {P : Event → Prop} {s t : State} (h : t.plat.events = s.plat.events) : Adds P s t :=
  ⟨[], by simp [h], by simp⟩

theorem Adds.trans {P : Event → Prop} {s t u : State} (h : Adds P s t) (h' : Adds P t u) : Adds P s u := by
  obtain ⟨new, he, hP⟩ := h
  obtain ⟨new', he', hP'⟩ := h'
  exact ⟨new ++ new', by rw [he', he, List.append_assoc], fun e hm => (List.mem_append.1 hm).elim (hP e) (hP' e)⟩

theorem Adds.mono {P Q : Event → Prop} {s t : State} (h : Adds P s t) (hPQ : ∀ e, P e → Q e) : Adds Q s t := by
  obtain ⟨new, he, hP⟩ := h
  exact ⟨new, he, fun e hm => hPQ e (hP e hm)⟩

theorem memRead_events (a : HostAddr) (s : State) :
    (memRead a s).2.plat.events = s.plat.events ++ [.memRead a] := by rw [memRead_snd_eq]

/-- A fill iteration writes one byte (R216). -/
theorem fillOnce_events {rect : Bool} {s t : State} (h : fillOnce rect s = .next t) :
    t.plat.events = s.plat.events ++ [.memWrite s.cur s.fillValue] := by
  obtain ⟨u, hadv, ht⟩ := andThen_eq_next.1 h
  cases ht
  rw [(advance_eq hadv).1, memWrite_eq]

/-- A copy iteration reads one byte and writes it (R220). -/
theorem copyOnce_events {rect : Bool} {s t : State} (h : copyOnce rect s = .next t) :
    t.plat.events = s.plat.events ++ [.memRead s.copyFrom, .memWrite s.cur (s.hostByte s.copyFrom)] := by
  obtain ⟨u, hadv, ht⟩ := andThen_eq_next.1 h
  cases ht
  rw [(advance_eq hadv).1, memWrite_eq]
  simp [memRead_fst, memRead_events]

theorem fillLoop_events {rect : Bool} {n : Nat} {s t : State} (h : fillLoop rect n s = .next t) :
    Adds (fun e => ∃ a v, e = .memWrite a v) s t := by
  induction n generalizing s with
  | zero => cases h; exact .of_eq rfl
  | succ n ih =>
    obtain ⟨u, honce, hloop⟩ := andThen_eq_next.1 h
    exact .trans ⟨_, fillOnce_events honce, by simp⟩ (ih hloop)

theorem copyLoop_events {rect : Bool} {n : Nat} {s t : State} (h : copyLoop rect n s = .next t) :
    Adds (fun e => (∃ a, e = .memRead a) ∨ ∃ a v, e = .memWrite a v) s t := by
  induction n generalizing s with
  | zero => cases h; exact .of_eq rfl
  | succ n ih =>
    obtain ⟨u, honce, hloop⟩ := andThen_eq_next.1 h
    exact .trans ⟨_, copyOnce_events honce, by simp⟩ (ih hloop)

/-- A transfer is one event (R64). -/
theorem dmaXfer_events (dir : DmaDir) (n : Byte) (h : HostAddr) (d : DevAddr) (s : State) :
    (dmaXfer dir n h d s).plat.events = s.plat.events ++ [.dmaXfer dir n h d] := by
  cases dir with
  | stash => rw [dmaXfer_stash_eq]
  | fetch => rw [dmaXfer_fetch_eq]

/-- Every transfer of a DMA operation is one chunk of RECT_SIZE bytes, and RECT_SIZE is not 0 (R240, R243). -/
theorem dmaLoop_events {dir : DmaDir} {mode : DmaMode} {rect : Bool} {n : Nat} {s t : State}
    (h : dmaLoop dir mode rect n s = .next t) :
    Adds (fun e => ∃ a d, e = .dmaXfer dir s.rectSize a d ∧ s.rectSize ≠ 0) s t := by
  induction n generalizing s with
  | zero => cases h; exact .of_eq rfl
  | succ n ih =>
    unfold dmaLoop at h
    split at h
    · cases h; exact .of_eq rfl
    · split at h
      · cases h
      · next hsize =>
        split at h
        · cases h
        · have hrest := ih h
          have hone : (dmaChunk dir mode rect s).plat.events =
              s.plat.events ++ [.dmaXfer dir s.rectSize s.cur s.dcur] := by
            rw [dmaChunk_eq]; exact dmaXfer_events ..
          have hkept : (dmaChunk dir mode rect s).rectSize = s.rectSize := by rw [dmaChunk_eq]
          rw [hkept] at hrest
          exact .trans ⟨_, hone, by simpa using hsize⟩ hrest

/-- A chip write that carries the byte of a shadow array at its own offset. -/
def FromShadow (s : State) (e : Event) : Prop := ∃ chip o bank, e = .chipWrite chip o (shadowAt s bank o)

theorem flush_events (bank chip : Chip) (s : State) : Adds (FromShadow s) s (flush bank chip s) := by
  refine ⟨flushEvents bank chip s, by rw [flush_eq], fun e he => ?_⟩
  obtain ⟨o, -, rfl⟩ := List.mem_map.1 he
  exact ⟨chip, o, bank, rfl⟩

theorem flush_shadow (bank chip : Chip) (s : State) : (flush bank chip s).shadow = s.shadow := by rw [flush_eq]

theorem fromShadow_congr {s t : State} (h : t.shadow = s.shadow) : FromShadow t = FromShadow s := by
  unfold FromShadow shadowAt; rw [h]

theorem updFlush_shadow (sel : UpdSel) (s : State) : (updFlush sel s).shadow = s.shadow := by
  cases sel <;> simp [updFlush, flush_shadow]

/-- The flushes of an update write the shadow arrays as they stand after its decode (R154). -/
theorem updFlush_events (sel : UpdSel) (s : State) : Adds (FromShadow s) s (updFlush sel s) := by
  cases sel with
  | chip0 => exact flush_events 0 0 s
  | chip1 => exact flush_events 1 1 s
  | both =>
    have hsecond := flush_events 0 1 (flush 0 0 s)
    rw [fromShadow_congr (flush_shadow 0 0 s)] at hsecond
    exact (flush_events 0 0 s).trans hsecond

theorem updCommit_events (sel : UpdSel) (s : State) : Adds (FromShadow (updCommit sel s)) s (updCommit sel s) := by
  unfold updCommit
  split
  · have hdecode : (decodeUpdate sel.bank s).plat.events = s.plat.events :=
      congrArg (·.plat.events) (applyPairs_eq _ _ s)
    rw [fromShadow_congr (updFlush_shadow ..)]
    exact (Adds.of_eq hdecode).trans (updFlush_events ..)
  · exact .of_eq rfl

/-- The events a stop handler may issue between s and t (R154, R157, R216, R220, R240, R260, R136, R137). -/
def StopIssues (s t : State) : StopHandler → Event → Prop
  | .nop, _ => False
  | .play x, e => e = .play x
  | .updCommit _, e | .flush _, e => FromShadow t e
  | .fill _, e => ∃ a v, e = .memWrite a v
  | .copy _, e => (∃ a, e = .memRead a) ∨ ∃ a v, e = .memWrite a v
  | .dma dir _ _, e => ∃ a d, e = .dmaXfer dir s.rectSize a d ∧ s.rectSize ≠ 0
  | .run, e => s.cfg.execEnable = true ∧ e = .exec s.bufAddr

theorem runBuffer_events (s : State) :
    Adds (fun e => s.cfg.execEnable = true ∧ e = .exec s.bufAddr) s (runBuffer s) := by
  unfold runBuffer
  split
  · next henabled => exact ⟨[.exec s.bufAddr], rfl, by simp [henabled]⟩
  · exact .of_eq rfl

theorem runStop_events {sh : StopHandler} {s t : State} (h : runStop sh s = .next t) :
    Adds (StopIssues s t sh) s t := by
  cases sh with
  | nop => cases h; exact .of_eq rfl
  | play x => cases h; exact ⟨[.play x], rfl, by simp [StopIssues]⟩
  | updCommit sel => cases h; exact updCommit_events sel s
  | flush bank =>
    cases h
    exact (flush_events bank bank s).mono fun e he => by rwa [← fromShadow_congr (flush_shadow bank bank s)] at he
  | fill rect => exact fillLoop_events (s := cursorInit s) h
  | copy rect => exact copyLoop_events (s := cursorInit s) h
  | dma dir mode rect => exact dmaLoop_events (s := { cursorInit s with dcur := s.dmaDevAddr }) h
  | run => cases h; exact runBuffer_events s

/-- Only a data byte for host memory issues an event: its store (R182). -/
theorem runData_events {dh : DataHandler} {b : Byte} {s t : State} (h : runData dh b s = .next t) :
    Adds (fun e => (∃ rect, dh = .load .mem rect) ∧ ∃ a v, e = .memWrite a v) s t := by
  cases dh with
  | nop => cases h; exact .of_eq rfl
  | updMask => cases h; exact .of_eq (by rw [updCollect_eq])
  | updReg bank => cases h; exact .of_eq (by rw [regByte_eq])
  | load target rect =>
    cases target with
    | record r =>
      simp only [runData, loadByte_record] at h
      cases h
      split
      · exact .of_eq rfl
      · exact .of_eq (by rw [storeRec_eq])
    | mem =>
      simp only [runData, loadByte] at h
      split at h
      · cases h; exact .of_eq rfl
      · exact ⟨_, by rw [storeMem_eq h], by simp⟩

/-- Settles O14: of the cases of a byte only frame stop and a data byte in DATA issue events, those of the installed
handler. -/
theorem outputsComeOnlyFromTheirHandlers : Obligations.OutputsComeOnlyFromTheirHandlers := by
  intro b s t h
  obtain ⟨-, rfl⟩ | ⟨rfl, u, hrun, rfl⟩ | ⟨-, rfl⟩ | ⟨-, -, rfl⟩ | ⟨-, -, rfl⟩ | ⟨-, -, ht, -⟩ | ⟨hc, hf, hrun⟩ :=
    stepByte_cases h
  -- frame start
  · exact Adds.of_eq rfl
  -- frame stop
  · obtain ⟨new, hnew, hall⟩ := runStop_events hrun
    refine ⟨new, hnew, fun e he => ?_⟩
    have hissued := hall e he
    cases hsh : s.sh <;> rw [hsh] at hissued
    case nop => exact hissued.elim
    case play x => cases hissued; exact ⟨rfl, rfl⟩
    case updCommit sel => obtain ⟨chip, o, bank, rfl⟩ := hissued; exact ⟨rfl, .inl ⟨sel, rfl⟩, bank, rfl⟩
    case flush c => obtain ⟨chip, o, bank, rfl⟩ := hissued; exact ⟨rfl, .inr ⟨c, rfl⟩, bank, rfl⟩
    case fill rect => obtain ⟨a, v, rfl⟩ := hissued; exact .inl ⟨rfl, rect, .inl rfl⟩
    case copy rect =>
      obtain ⟨a, rfl⟩ | ⟨a, v, rfl⟩ := hissued
      · exact ⟨rfl, rect, rfl⟩
      · exact .inl ⟨rfl, rect, .inr rfl⟩
    case dma dir mode rect => obtain ⟨a, d, rfl, hsize⟩ := hissued; exact ⟨rfl, ⟨mode, rect, rfl⟩, rfl, hsize⟩
    case run => obtain ⟨henabled, rfl⟩ := hissued; exact ⟨rfl, rfl, henabled, rfl⟩
  -- a real-time byte
  · exact Adds.of_eq rfl
  -- a data byte in IDLE
  · exact Adds.of_eq rfl
  -- a data byte in AWAIT_MANUF
  · exact Adds.of_eq rfl
  -- a data byte in DISPATCH
  · exact Adds.of_eq (by rw [ht])
  -- a data byte in DATA
  · obtain ⟨new, hnew, hall⟩ := runData_events hrun
    refine ⟨new, hnew, fun e he => ?_⟩
    obtain ⟨hload, a, v, rfl⟩ := hall e he
    exact .inr ⟨hc, hf, hload⟩

end Sys2Proof.Machine
end

section
/-! SUPPORT. The packed form: the unpacker gives back what the packer packed (30_encoding.md R106, R107). -/

namespace Sys2Proof.Machine

theorem lowBits_msb (b : Byte) : (b &&& 0x7F#8).msb = false := by
  rw [BitVec.msb_eq_getLsbD_last, BitVec.getLsbD_and]; simp

theorem withHigh_lowBits (b : Byte) : withHigh (b &&& 0x7F#8) b.msb = b := by
  revert b; decide

/-- Bit i of a group's mask byte is bit 7 of its byte i, and 0 where there is none (R107). -/
theorem getLsbD_packMask (g : List Byte) {i : Nat} (hi : i < 8) :
    (packMask g).getLsbD i = (g[i]?.map BitVec.msb).getD false := by
  induction g generalizing i with
  | nil => simp [packMask]
  | cons b bs ih =>
    unfold packMask
    cases i with
    | zero => cases hb : b.msb <;> simp [hb]
    | succ i =>
      have hfirst : (if b.msb then 1#8 else 0#8).getLsbD (i + 1) = false := by
        cases b.msb <;> simp [BitVec.getLsbD_one]
      rw [BitVec.getLsbD_or, hfirst, BitVec.getLsbD_shiftLeft]
      simp [hi, ih (i := i) (by omega)]

/-- The low 7 bits of a group's bytes and a mask that holds their top bits give back the bytes. -/
theorem unpackFrom_group (g rest : List Byte) (p : Nat) (m : Septet)
    (hm : ∀ i (hi : i < g.length), m.getLsbD i = g[i].msb) :
    unpackFrom (g.length + p) m (g.map (· &&& 0x7F#8) ++ rest) = g ++ unpackFrom p (m >>> g.length) rest := by
  induction g generalizing m with
  | nil => simp
  | cons b bs ih =>
    have htop : m.getLsbD 0 = b.msb := hm 0 (by simp)
    have hshift : ∀ i (hi : i < bs.length), (m >>> 1).getLsbD i = bs[i].msb := fun i hi => by
      rw [BitVec.getLsbD_ushiftRight, Nat.add_comm]
      exact hm (i + 1) (by simpa using hi)
    rw [List.length_cons, show bs.length + 1 + p = (bs.length + p) + 1 by omega, List.map_cons, List.cons_append,
      unpackFrom, htop, withHigh_lowBits, ih _ hshift, ← BitVec.shiftRight_add, Nat.add_comm 1]
    rfl

/-- A packed group unpacks to its bytes, and what follows it is owed the rest of the 7. -/
theorem unpackFrom_packGroup (g rest : List Byte) (m : Septet) (hg : g.length ≤ 7) :
    ∃ m', unpackFrom 0 m (packGroup g ++ rest) = g ++ unpackFrom (7 - g.length) m' rest := by
  refine ⟨(packMask g).setWidth 7 >>> g.length, ?_⟩
  have hgroup := unpackFrom_group g rest (7 - g.length) ((packMask g).setWidth 7) fun i hi => by
    rw [BitVec.getLsbD_setWidth, getLsbD_packMask g (by omega)]
    simp [hi]; omega
  rw [Nat.add_sub_cancel' hg] at hgroup
  exact hgroup

/-- The packer makes a group of the first 7 bytes and goes on with the others. -/
theorem pack7_eq : ∀ {bytes : List Byte}, bytes ≠ [] →
    pack7 bytes = packGroup (bytes.take 7) ++ pack7 (bytes.drop 7)
  | [], h => absurd rfl h
  | [_], _ | [_, _], _ | [_, _, _], _ | [_, _, _, _], _ | [_, _, _, _, _], _ | [_, _, _, _, _, _], _ => by simp [pack7]
  | _ :: _ :: _ :: _ :: _ :: _ :: _ :: _, _ => rfl

/-- The unpacker gives back what the packer packed, whatever mask was left before. -/
theorem unpackFrom_pack7 (bytes : List Byte) (m : Septet) : unpackFrom 0 m (pack7 bytes) = bytes := by
  by_cases hne : bytes = []
  · subst hne; rfl
  · obtain ⟨m', hgroup⟩ := unpackFrom_packGroup (bytes.take 7) (pack7 (bytes.drop 7)) m (by simp)
    have hrest : unpackFrom (7 - (bytes.take 7).length) m' (pack7 (bytes.drop 7)) = bytes.drop 7 := by
      by_cases hlong : 7 ≤ bytes.length
      · rw [List.length_take, min_eq_left hlong]
        have : bytes.length - 7 < bytes.length := by omega
        exact unpackFrom_pack7 (bytes.drop 7) m'
      · rw [List.drop_eq_nil_of_le (by omega)]
        simp [pack7, unpackFrom]
    rw [pack7_eq hne, hgroup, hrest, List.take_append_drop]
termination_by bytes.length
decreasing_by simp; omega

theorem packMask_msb (g : List Byte) (hg : g.length ≤ 7) : (packMask g).msb = false := by
  rw [BitVec.msb_eq_getLsbD_last, getLsbD_packMask g (by decide), List.getElem?_eq_none hg]
  rfl

theorem packGroup_data (g : List Byte) (hg : g.length ≤ 7) : ∀ b ∈ packGroup g, b.msb = false := by
  intro b hb
  obtain rfl | hb := List.mem_cons.1 hb
  · exact packMask_msb g hg
  · obtain ⟨x, -, rfl⟩ := List.mem_map.1 hb
    exact lowBits_msb x

/-- What the packer makes is data bytes. -/
theorem pack7_data (bytes : List Byte) : ∀ b ∈ pack7 bytes, b.msb = false := by
  by_cases hne : bytes = []
  · subst hne; simp [pack7]
  · have : 0 < bytes.length := List.length_pos_iff.2 hne
    rw [pack7_eq hne]
    intro b hb
    obtain hb | hb := List.mem_append.1 hb
    · exact packGroup_data _ (by simp) b hb
    · exact pack7_data (bytes.drop 7) b hb
termination_by bytes.length
decreasing_by simp; omega

end Sys2Proof.Machine
end

section
/-! SUPPORT. The loader fills a record (42_loader.md R181, R183). -/

namespace Sys2Proof.Machine

/-- A record byte replaces its byte of the record. -/
theorem recordBytes_setRecordByte {r : Record} {i : Nat} (hi : i < r.length) (v : Byte) (s : State) :
    recordBytes (setRecordByte r i v s) r = (recordBytes s r).set i v := by
  cases r <;> simp only [Record.length] at hi <;> interval_cases i <;>
    simp [setRecordByte, setAddrByte, setRectByte, setFillByte, setCopyByte, recordBytes,
      extract_setLow16_low, extract_setLow16_high, extract_setHigh16_low, extract_setHigh16_high,
      extract_setLow24_low, extract_setLow24_mid, extract_setLow24_high,
      extract_setMid24_low, extract_setMid24_mid, extract_setMid24_high,
      extract_setHigh24_low, extract_setHigh24_mid, extract_setHigh24_high]

theorem recordBytes_setRecordByte_other {r r' : Record} (h : r' ≠ r) {i : Nat} (hi : i < r.length) (v : Byte)
    (s : State) : recordBytes (setRecordByte r i v s) r' = recordBytes s r' := by
  revert h
  cases r <;> simp only [Record.length] at hi <;> interval_cases i <;> cases r' <;>
    simp [setRecordByte, setAddrByte, setRectByte, setFillByte, setCopyByte, recordBytes]

/-- StoreRec replaces byte LD_IDX of its record, or nothing beyond the record's end (R183). -/
theorem recordBytes_storeRec (r : Record) (v : Byte) (s : State) :
    recordBytes (storeRec r v s) r = (recordBytes s r).set s.ldIdx.toNat v := by
  unfold storeRec
  split
  · next hi => rw [← recordBytes_setRecordByte hi]; cases r <;> rfl
  · next hi => rw [List.set_eq_of_length_le (by rw [recordBytes_length]; omega)]

theorem recordBytes_storeRec_other {r r' : Record} (h : r' ≠ r) (v : Byte) (s : State) :
    recordBytes (storeRec r v s) r' = recordBytes s r' := by
  unfold storeRec
  split
  · next hi => rw [← recordBytes_setRecordByte_other h hi v s]; cases r' <;> rfl
  · rfl

/-- LD_IDX moves on within the record (R183). -/
theorem storeRec_ldIdx {r : Record} {s : State} (hi : s.ldIdx.toNat < r.length) (v : Byte) :
    (storeRec r v s).ldIdx.toNat = s.ldIdx.toNat + 1 := by
  have hlen : r.length ≤ 7 := by cases r <;> decide
  unfold storeRec
  rw [if_pos hi]
  simp only [BitVec.toNat_add]
  simp; omega

/-- A byte beyond the record is dropped (R183). -/
theorem storeRec_beyond {r : Record} {s : State} (hi : r.length ≤ s.ldIdx.toNat) (v : Byte) : storeRec r v s = s := by
  unfold storeRec
  rw [if_neg (by omega)]

/-- The loader's mask registers have no part in what a record byte does. -/
theorem setRecordByte_withMask (r : Record) (i : Nat) (v : Byte) (m : Septet) (p : BitVec 3) (s : State) :
    setRecordByte r i v { s with ldMask := m, ldPending := p } =
      { setRecordByte r i v s with ldMask := m, ldPending := p } := by
  cases r <;> simp only [setRecordByte]
  · unfold setAddrByte; split <;> rfl
  · unfold setRectByte; split <;> rfl
  · unfold setFillByte; split <;> rfl
  · unfold setCopyByte; split <;> rfl

theorem storeRec_withMask (r : Record) (v : Byte) (m : Septet) (p : BitVec 3) (s : State) :
    storeRec r v { s with ldMask := m, ldPending := p } =
      { storeRec r v s with ldMask := m, ldPending := p } := by
  unfold storeRec
  split
  · rw [setRecordByte_withMask]
  · rfl

/-- StoreRec of decoded bytes, one after another. -/
def storeRecs (r : Record) (vs : List Byte) (s : State) : State := vs.foldl (fun s v => storeRec r v s) s

@[simp] theorem storeRecs_nil (r : Record) (s : State) : storeRecs r [] s = s := rfl
@[simp] theorem storeRecs_cons (r : Record) (v : Byte) (vs : List Byte) (s : State) :
    storeRecs r (v :: vs) s = storeRecs r vs (storeRec r v s) := rfl

theorem storeRecs_withMask (r : Record) (vs : List Byte) (m : Septet) (p : BitVec 3) (s : State) :
    storeRecs r vs { s with ldMask := m, ldPending := p } =
      { storeRecs r vs s with ldMask := m, ldPending := p } := by
  induction vs generalizing s with
  | nil => rfl
  | cons v vs ih => rw [storeRecs_cons, storeRec_withMask, ih, storeRecs_cons]

/-- All the decoded bytes of a record do: they touch the records and LD_IDX. -/
theorem storeRecs_eq (r : Record) (vs : List Byte) (s : State) :
    storeRecs r vs s = { s with
      ldIdx := (storeRecs r vs s).ldIdx
      bufAddr := (storeRecs r vs s).bufAddr
      dmaDevAddr := (storeRecs r vs s).dmaDevAddr
      dmaCount := (storeRecs r vs s).dmaCount
      rectStart := (storeRecs r vs s).rectStart
      rectSize := (storeRecs r vs s).rectSize
      rectInc := (storeRecs r vs s).rectInc
      fillValue := (storeRecs r vs s).fillValue
      fillCount := (storeRecs r vs s).fillCount
      copyFrom := (storeRecs r vs s).copyFrom
      copyCount := (storeRecs r vs s).copyCount } := by
  induction vs generalizing s with
  | nil => rfl
  | cons v vs ih =>
    have h := ih (storeRec r v s)
    rw [storeRecs_cons]
    generalize storeRecs r vs (storeRec r v s) = t at h ⊢
    rw [storeRec_eq] at h
    rw [h]

@[simp] theorem storeRecs_sh (r : Record) (vs : List Byte) (s : State) : (storeRecs r vs s).sh = s.sh := by
  rw [storeRecs_eq]
@[simp] theorem storeRecs_shadow (r : Record) (vs : List Byte) (s : State) : (storeRecs r vs s).shadow = s.shadow := by
  rw [storeRecs_eq]
@[simp] theorem storeRecs_cur (r : Record) (vs : List Byte) (s : State) : (storeRecs r vs s).cur = s.cur := by
  rw [storeRecs_eq]
@[simp] theorem storeRecs_col (r : Record) (vs : List Byte) (s : State) : (storeRecs r vs s).col = s.col := by
  rw [storeRecs_eq]
@[simp] theorem storeRecs_plat (r : Record) (vs : List Byte) (s : State) : (storeRecs r vs s).plat = s.plat := by
  rw [storeRecs_eq]
@[simp] theorem storeRecs_cfg (r : Record) (vs : List Byte) (s : State) : (storeRecs r vs s).cfg = s.cfg := by
  rw [storeRecs_eq]

theorem recordBytes_storeRecs_other {r r' : Record} (h : r' ≠ r) (vs : List Byte) (s : State) :
    recordBytes (storeRecs r vs s) r' = recordBytes s r' := by
  induction vs generalizing s with
  | nil => rfl
  | cons v vs ih => rw [storeRecs_cons, ih, recordBytes_storeRec_other h]

/-- The decoded bytes replace those of the record from LD_IDX on; what is beyond the record is dropped. -/
theorem recordBytes_storeRecs (r : Record) (vs : List Byte) (s : State) (hi : s.ldIdx.toNat ≤ r.length) :
    recordBytes (storeRecs r vs s) r =
      (recordBytes s r).take s.ldIdx.toNat ++ vs.take (r.length - s.ldIdx.toNat) ++
        (recordBytes s r).drop (s.ldIdx.toNat + vs.length) := by
  induction vs generalizing s with
  | nil => simp
  | cons v vs ih =>
    rw [storeRecs_cons]
    obtain hlt | hend := hi.lt_or_eq
    · have htake : ((recordBytes s r).set s.ldIdx.toNat v).take (s.ldIdx.toNat + 1) =
          (recordBytes s r).take s.ldIdx.toNat ++ [v] := by
        rw [List.take_add_one, List.take_set_of_le (Nat.le_refl _),
          List.getElem?_set_self (by rwa [recordBytes_length])]
        rfl
      rw [ih _ (by rw [storeRec_ldIdx hlt]; exact hlt), storeRec_ldIdx hlt, recordBytes_storeRec, htake,
        List.drop_set_of_lt (by omega), show r.length - s.ldIdx.toNat = r.length - (s.ldIdx.toNat + 1) + 1 by omega,
        List.take_succ_cons, List.length_cons]
      simp [Nat.add_assoc, Nat.add_comm 1]
    · rw [storeRec_beyond hend.ge, ih s hi, hend, Nat.sub_self, List.take_zero, List.take_zero,
        List.drop_eq_nil_of_le (by rw [recordBytes_length]; omega),
        List.drop_eq_nil_of_le (by rw [recordBytes_length]; omega)]

/-- A data byte of a record load (R181). -/
theorem stepByte_recordLoad {r : Record} {rect : Bool} {b : Byte} {s : State} (hb : b.msb = false)
    (hf : s.fstate = .data) (hdh : s.dh = .load (.record r) rect) :
    stepByte b s = loadByte (.record r) rect b s := by
  rw [stepByte_data (classify_data.2 hb)]
  unfold dataByte
  rw [hf, hdh]
  rfl

/-- Fed to a record load, payload bytes store their decoded bytes; beside that only the mask registers change. -/
theorem feed_recordLoad {r : Record} {rect : Bool} {payload : List Byte} {s : State}
    (hdata : ∀ b ∈ payload, b.msb = false) (hf : s.fstate = .data) (hdh : s.dh = .load (.record r) rect) :
    ∃ m p, feed payload s = .next
      { storeRecs r (unpackFrom s.ldPending.toNat s.ldMask payload) s with ldMask := m, ldPending := p } := by
  induction payload generalizing s with
  | nil => exact ⟨s.ldMask, s.ldPending, rfl⟩
  | cons b bs ih =>
    have hbs : ∀ x ∈ bs, x.msb = false := fun x hx => hdata x (List.mem_cons_of_mem b hx)
    rw [feed, stepByte_recordLoad (hdata b List.mem_cons_self) hf hdh, loadByte_record, andThen_next]
    split
    · next hp =>
      obtain ⟨m, p, h⟩ := ih (s := { s with ldMask := b.setWidth 7, ldPending := 7 }) hbs hf hdh
      refine ⟨m, p, ?_⟩
      rw [h, storeRecs_withMask, hp]
      rfl
    · next hp =>
      have hpos : s.ldPending.toNat = (s.ldPending - 1).toNat + 1 := by bv_omega
      rw [storeRec_withMask]
      obtain ⟨m, p, h⟩ := ih (s := { storeRec r (withHigh b (s.ldMask.getLsbD 0)) s with
        ldMask := s.ldMask >>> 1, ldPending := s.ldPending - 1 }) hbs
        (by rw [storeRec_eq]; exact hf) (by rw [storeRec_eq]; exact hdh)
      refine ⟨m, p, ?_⟩
      rw [h, storeRecs_withMask, hpos, unpackFrom, storeRecs_cons]

end Sys2Proof.Machine
end

section
/-! SUPPORT. Whole frames (30_encoding.md R90; 40_framer_dispatch.md R120 to R126), and those that load a record. -/

namespace Sys2Proof.Machine

theorem feed_append (bs cs : List Byte) (s : State) : feed (bs ++ cs) s = andThen (feed bs s) (feed cs) := by
  induction bs generalizing s with
  | nil => rfl
  | cons b bs ih =>
    have hf : feed (bs ++ cs) = fun u => andThen (feed bs u) (feed cs) := funext ih
    rw [List.cons_append, feed, feed, hf, andThen_assoc]

theorem feed_singleton (b : Byte) (s : State) : feed [b] s = stepByte b s := andThen_next_right _

theorem encodeFrame_eq (c : Config) (k : Kind) (payload : List Byte) :
    encodeFrame c ⟨k, payload⟩ =
      0xF0#8 :: c.manufId.setWidth 8 :: (c.code k).setWidth 8 :: (payload ++ [0xF7#8]) := by
  simp [encodeFrame, Frame.parts, encodePart, Function.comp_def]

/-- The manufacturer byte takes the framer to DISPATCH (R124). -/
theorem stepByte_manuf {s : State} (hf : s.fstate = .awaitManuf) :
    stepByte (s.cfg.manufId.setWidth 8) s = .next { s with fstate := .dispatch } := by
  rw [stepByte_data (classify_setWidth _)]
  unfold dataByte
  rw [hf]
  simp

theorem dataByte_dispatch {b : Byte} {s : State} (hf : s.fstate = .dispatch) : dataByte b s = dispatchByte b s := by
  unfold dataByte
  rw [hf]

theorem startHandler_code {k : Kind} {s : State} (hd : s.cfg.codesDistinct) (hk : s.cfg.has k = true) :
    startHandler ((s.cfg.code k).setWidth 8) s = exec (k.instr .command) s := by
  unfold startHandler
  rw [decodeCommand_data (classify_setWidth _), setWidth_setWidth, kindOf_code hd hk]

/-- The code of an implemented command runs its start handler (R95, R126). -/
theorem stepByte_code {k : Kind} {s : State} (hf : s.fstate = .dispatch) (hd : s.cfg.codesDistinct)
    (hk : s.cfg.has k = true) :
    stepByte ((s.cfg.code k).setWidth 8) s =
      andThen (exec (k.instr .command) { s with cmd := s.cfg.code k }) fun t => .next { t with fstate := .data } := by
  rw [stepByte_data (classify_setWidth _), dataByte_dispatch hf, dispatchByte, setWidth_setWidth]
  exact congrArg (andThen · _) (startHandler_code (s := { s with cmd := s.cfg.code k }) hd hk)

/-- A whole frame: the start handler from aborted handlers, the payload, and frame stop. -/
theorem feed_encodeFrame {k : Kind} {s : State} (payload : List Byte) (hd : s.cfg.codesDistinct)
    (hk : s.cfg.has k = true) :
    feed (encodeFrame s.cfg ⟨k, payload⟩) s =
      andThen (exec (k.instr .command) { s with dh := .nop, sh := .nop, fstate := .dispatch, cmd := s.cfg.code k })
        fun t => andThen (feed payload { t with fstate := .data }) frameStop := by
  have hmanuf := stepByte_manuf (s := { s with dh := .nop, sh := .nop, fstate := .awaitManuf }) rfl
  have hcode := stepByte_code (k := k) (s := { s with dh := .nop, sh := .nop, fstate := .dispatch }) rfl hd hk
  have hstop : feed [0xF7#8] = frameStop := funext (feed_singleton _)
  rw [encodeFrame_eq, feed, stepByte_frameStart, andThen_next, feed, hmanuf, andThen_next, feed, hcode, andThen_assoc]
  simp only [andThen_next, feed_append, hstop]

/-- The start handler of a command that loads a record (R128). -/
theorem exec_recordStart {k : Kind} {r : Record} (hkr : (k, r) ∈ recordKinds) (s : State) :
    exec (k.instr .command) s = .next (recordStart r (startRow k).2 s) := by
  simp only [recordKinds, List.mem_cons, Prod.mk.injEq, List.not_mem_nil, or_false] at hkr
  obtain ⟨rfl, rfl⟩ | ⟨rfl, rfl⟩ | ⟨rfl, rfl⟩ | ⟨rfl, rfl⟩ | ⟨rfl, rfl⟩ | ⟨rfl, rfl⟩ := hkr <;> rfl

/-- The state in which the payload of a record frame of kind k begins. -/
def recordOpened (k : Kind) (r : Record) (s : State) : State :=
  { s with
    dh := .load (.record r) false, sh := (startRow k).2, fstate := .data, cmd := s.cfg.code k
    ldPending := 0, ldIdx := 0 }

@[simp] theorem recordBytes_recordOpened (k : Kind) (r r' : Record) (s : State) :
    recordBytes (recordOpened k r s) r' = recordBytes s r' := by cases r' <;> rfl

@[simp] theorem recordBytes_endFrame (s : State) (r : Record) : recordBytes (endFrame s) r = recordBytes s r := by
  cases r <;> rfl

theorem recordBytes_withMask (s : State) (m : Septet) (p : BitVec 3) (r : Record) :
    recordBytes { s with ldMask := m, ldPending := p } r = recordBytes s r := by cases r <;> rfl

/-- A whole frame of a command that loads a record stores the bytes it carries, then runs its stop handler. -/
theorem feed_recordFrame {k : Kind} {r : Record} (hkr : (k, r) ∈ recordKinds) {s : State} (bytes : List Byte)
    (hd : s.cfg.codesDistinct) (hk : s.cfg.has k = true) :
    ∃ m p, feed (encodeFrame s.cfg ⟨k, pack7 bytes⟩) s =
      frameStop { storeRecs r bytes (recordOpened k r s) with ldMask := m, ldPending := p } := by
  obtain ⟨m, p, hfeed⟩ := feed_recordLoad (s := recordOpened k r s) (pack7_data bytes) rfl rfl
  have hdecoded : unpackFrom (recordOpened k r s).ldPending.toNat (recordOpened k r s).ldMask (pack7 bytes) = bytes :=
    unpackFrom_pack7 bytes _
  rw [hdecoded] at hfeed
  rw [feed_encodeFrame _ hd hk, exec_recordStart hkr, andThen_next]
  exact ⟨m, p, congrArg (andThen · frameStop) hfeed⟩

/-- Settles O39: the packed payload decodes to the bytes, and ADDR and ADDR_RECT have no stop action. -/
theorem recordFrameReplacesTheLeadingBytes : Obligations.RecordFrameReplacesTheLeadingBytes := by
  intro k r hkr s bytes hd hk
  have hkind : (k, r) ∈ recordKinds ∧ (startRow k).2 = .nop := by
    simp only [List.mem_cons, Prod.mk.injEq, List.not_mem_nil, or_false] at hkr
    obtain ⟨rfl, rfl⟩ | ⟨rfl, rfl⟩ := hkr <;> exact ⟨by decide, rfl⟩
  obtain ⟨hmem, hnop⟩ := hkind
  obtain ⟨m, p, hfeed⟩ := feed_recordFrame hmem bytes hd hk
  refine ⟨endFrame { storeRecs r bytes (recordOpened k r s) with ldMask := m, ldPending := p }, ?_, ?_, ?_,
    storeRecs_plat .., storeRecs_cfg .., storeRecs_shadow .., storeRecs_cur .., storeRecs_col .., rfl⟩
  · have hsh : (storeRecs r bytes (recordOpened k r s)).sh = .nop := (storeRecs_sh ..).trans hnop
    rw [hfeed]
    unfold frameStop
    rw [hsh]
    rfl
  · have hstart : (recordOpened k r s).ldIdx.toNat = 0 := rfl
    rw [recordBytes_endFrame, recordBytes_withMask, recordBytes_storeRecs _ _ _ (Nat.zero_le _), hstart]
    simp
  · intro r' hne
    rw [recordBytes_endFrame, recordBytes_withMask, recordBytes_storeRecs_other hne, recordBytes_recordOpened]

end Sys2Proof.Machine
end

section
/-! SUPPORT. The step takes one byte of RXQ and touches nothing behind it: what waits there has no part in what the
engine does (20_memory.md R60, R61). -/

namespace Sys2Proof.Machine

/-! ### One byte a step -/

theorem step_cons {s : State} {b : Byte} {rest : List Byte} (hq : s.plat.rxq = b :: rest) :
    step s = stepByte b { s with rxpend := false, plat := { s.plat with rxq := rest } } := by
  rw [step_eq, hq]

theorem step_nil {s : State} (hq : s.plat.rxq = []) : step s = .next { s with rxpend := false } := by
  rw [step_eq, hq]

theorem stepByte_rxq {b : Byte} {s t : State} (h : stepByte b s = .next t) : t.plat.rxq = s.plat.rxq := by
  obtain ⟨-, -, hrxq, -⟩ := registersChangeOnlyByTheirRules b s t h
  exact hrxq

/-- Settles O5: the step is Step(b) of the front byte, and no byte touches RXQ. -/
theorem stepTakesExactlyOneByte : Obligations.StepTakesExactlyOneByte := by
  refine ⟨fun s b rest hq => ⟨step_cons hq, fun t ht => ?_⟩, fun s hq => step_nil hq⟩
  rw [step_cons hq] at ht
  exact stepByte_rxq ht

/-! ### The platform and bytes at the back of its queue -/

/-- The platform after the transport appended bytes to RXQ (R60). -/
def Platform.enqueue (bs : List Byte) (p : Platform) : Platform := { p with rxq := p.rxq ++ bs }

theorem Platform.keeps_enqueue (bs : List Byte) (p : Platform) (c : Config) (a : HostAddr) :
    (p.enqueue bs).keeps c a = p.keeps c a := rfl

theorem Platform.keepsChip_enqueue (bs : List Byte) (p : Platform) (c : Config) (chip : Chip) :
    (p.enqueue bs).keepsChip c chip = p.keepsChip c chip := rfl

theorem Platform.released_enqueue (bs : List Byte) (p : Platform) : (p.enqueue bs).released = p.released := rfl

theorem Platform.hostRead_enqueue (bs : List Byte) (p : Platform) (c : Config) (a : HostAddr) :
    (p.enqueue bs).hostRead c a = ((p.hostRead c a).1, (p.hostRead c a).2.enqueue bs) := by
  unfold hostRead; rw [keeps_enqueue]; split <;> rfl

theorem Platform.hostWrite_enqueue (bs : List Byte) (p : Platform) (c : Config) (a : HostAddr) (v : Byte) :
    (p.enqueue bs).hostWrite c a v = (p.hostWrite c a v).enqueue bs := by
  unfold hostWrite; rw [keeps_enqueue]; split <;> rfl

theorem Platform.devRead_enqueue (bs : List Byte) (p : Platform) (d : DevAddr) :
    (p.enqueue bs).devRead d = ((p.devRead d).1, (p.devRead d).2.enqueue bs) := by
  unfold devRead; rw [released_enqueue]; split <;> rfl

theorem Platform.devWrite_enqueue (bs : List Byte) (p : Platform) (d : DevAddr) (v : Byte) :
    (p.enqueue bs).devWrite d v = (p.devWrite d v).enqueue bs := by
  unfold devWrite; rw [released_enqueue]; split <;> rfl

theorem Platform.chipSet_enqueue (bs : List Byte) (p : Platform) (c : Config) (chip : Chip) (o : Offset) (v : Byte) :
    (p.enqueue bs).chipSet c chip o v = (p.chipSet c chip o v).enqueue bs := by
  unfold chipSet; rw [keepsChip_enqueue]
  split
  · split <;> rfl
  · rfl

theorem Platform.moveByte_enqueue (bs : List Byte) (dir : DmaDir) (c : Config) (h : HostAddr) (d : DevAddr)
    (p : Platform) : (p.enqueue bs).moveByte dir c h d = (p.moveByte dir c h d).enqueue bs := by
  cases dir with
  | stash => simp only [moveByte, hostRead_enqueue, devWrite_enqueue]
  | fetch => simp only [moveByte, devRead_enqueue, hostWrite_enqueue]

theorem Platform.moveBytes_enqueue (bs : List Byte) (dir : DmaDir) (c : Config) (n : Nat) (h : HostAddr) (d : DevAddr)
    (p : Platform) : moveBytes dir c n h d (p.enqueue bs) = (moveBytes dir c n h d p).enqueue bs := by
  induction n generalizing h d p with
  | zero => rfl
  | succ n ih => rw [moveBytes, moveByte_enqueue, ih, moveBytes]

/-! ### The operations of the engine and bytes delivered behind RXQ -/

@[simp] theorem deliver_fstate (bs : List Byte) (s : State) : (deliver bs s).fstate = s.fstate := rfl
@[simp] theorem deliver_urHave (bs : List Byte) (s : State) : (deliver bs s).urHave = s.urHave := rfl
@[simp] theorem deliver_urIdx (bs : List Byte) (s : State) : (deliver bs s).urIdx = s.urIdx := rfl
@[simp] theorem deliver_ldPending (bs : List Byte) (s : State) : (deliver bs s).ldPending = s.ldPending := rfl
@[simp] theorem deliver_ldIdx (bs : List Byte) (s : State) : (deliver bs s).ldIdx = s.ldIdx := rfl
@[simp] theorem deliver_cur (bs : List Byte) (s : State) : (deliver bs s).cur = s.cur := rfl
@[simp] theorem deliver_dcur (bs : List Byte) (s : State) : (deliver bs s).dcur = s.dcur := rfl
@[simp] theorem deliver_dmaCount (bs : List Byte) (s : State) : (deliver bs s).dmaCount = s.dmaCount := rfl
@[simp] theorem deliver_rectSize (bs : List Byte) (s : State) : (deliver bs s).rectSize = s.rectSize := rfl
@[simp] theorem deliver_copyFrom (bs : List Byte) (s : State) : (deliver bs s).copyFrom = s.copyFrom := rfl
@[simp] theorem deliver_cfg (bs : List Byte) (s : State) : (deliver bs s).cfg = s.cfg := rfl

theorem memRead_deliver (bs : List Byte) (a : HostAddr) (s : State) :
    memRead a (deliver bs s) = ((memRead a s).1, deliver bs (memRead a s).2) := by
  have h := Platform.hostRead_enqueue bs (emit (.memRead a) s).plat s.cfg a
  exact congrArg (fun r => (r.1, { s with plat := r.2 })) h

theorem memWrite_deliver (bs : List Byte) (a : HostAddr) (v : Byte) (s : State) :
    memWrite a v (deliver bs s) = deliver bs (memWrite a v s) :=
  congrArg (fun p => { s with plat := p }) (Platform.hostWrite_enqueue bs (emit (.memWrite a v) s).plat s.cfg a v)

theorem chipWrite_deliver (bs : List Byte) (c : Chip) (o : Offset) (v : Byte) (s : State) :
    chipWrite c o v (deliver bs s) = deliver bs (chipWrite c o v s) :=
  congrArg (fun p => { s with plat := p }) (Platform.chipSet_enqueue bs (emit (.chipWrite c o v) s).plat s.cfg c o v)

theorem dmaXfer_deliver (bs : List Byte) (dir : DmaDir) (n : Byte) (h : HostAddr) (d : DevAddr) (s : State) :
    dmaXfer dir n h d (deliver bs s) = deliver bs (dmaXfer dir n h d s) :=
  congrArg (fun p => { s with plat := { p with devLen := s.plat.lengthAfter } })
    (Platform.moveBytes_enqueue bs dir s.cfg n.toNat h d
      { (emit (.dmaXfer dir n h d) s).plat with devLen := .holds n })

theorem flush_deliver (bs : List Byte) (bank chip : Chip) (s : State) :
    flush bank chip (deliver bs s) = deliver bs (flush bank chip s) :=
  List.foldl_hom (deliver bs) fun t o => chipWrite_deliver bs chip o (shadowAt s bank o) t

theorem decodeUpdate_deliver (bs : List Byte) (bank : Chip) (s : State) :
    decodeUpdate bank (deliver bs s) = deliver bs (decodeUpdate bank s) :=
  List.foldl_hom (deliver bs) fun _ _ => rfl

theorem updFlush_deliver (bs : List Byte) (sel : UpdSel) (s : State) :
    updFlush sel (deliver bs s) = deliver bs (updFlush sel s) := by
  cases sel <;> simp only [updFlush, flush_deliver]

theorem updCommit_deliver (bs : List Byte) (sel : UpdSel) (s : State) :
    updCommit sel (deliver bs s) = deliver bs (updCommit sel s) := by
  have hlength : updLengthOk (deliver bs s) = updLengthOk s := rfl
  unfold updCommit
  rw [hlength, decodeUpdate_deliver, updFlush_deliver]
  split <;> rfl

theorem updCollect_deliver (bs : List Byte) (b : Byte) (s : State) :
    updCollect b (deliver bs s) = deliver bs (updCollect b s) := by
  have hcount : (deliver bs s).ucnt = s.ucnt := rfl
  unfold updCollect
  simp only [hcount]
  split <;> rfl

theorem applyPair_deliver (bs : List Byte) (bank : Chip) (x : Septet) (y : Byte) (s : State) :
    applyPair bank x y (deliver bs s) = deliver bs (applyPair bank x y s) := by
  unfold applyPair; split <;> rfl

theorem regByte_deliver (bs : List Byte) (bank : Chip) (b : Byte) (s : State) :
    regByte bank b (deliver bs s) = deliver bs (regByte bank b s) := by
  unfold regByte
  rw [deliver_urHave, deliver_urIdx, applyPair_deliver]
  split <;> rfl

theorem setRecordByte_deliver (bs : List Byte) (r : Record) (i : Nat) (v : Byte) (s : State) :
    setRecordByte r i v (deliver bs s) = deliver bs (setRecordByte r i v s) := by
  cases r <;> simp only [setRecordByte]
  · unfold setAddrByte; split <;> rfl
  · unfold setRectByte; split <;> rfl
  · unfold setFillByte; split <;> rfl
  · unfold setCopyByte; split <;> rfl

theorem storeRec_deliver (bs : List Byte) (r : Record) (v : Byte) (s : State) :
    storeRec r v (deliver bs s) = deliver bs (storeRec r v s) := by
  unfold storeRec
  rw [deliver_ldIdx, setRecordByte_deliver]
  split <;> rfl

theorem dmaChunk_deliver (bs : List Byte) (dir : DmaDir) (mode : DmaMode) (rect : Bool) (s : State) :
    dmaChunk dir mode rect (deliver bs s) = deliver bs (dmaChunk dir mode rect s) := by
  unfold dmaChunk
  simp only [deliver_rectSize, deliver_cur, deliver_dcur, dmaXfer_deliver]
  cases mode <;> cases rect <;> rfl

theorem runBuffer_deliver (bs : List Byte) (s : State) : runBuffer (deliver bs s) = deliver bs (runBuffer s) := by
  unfold runBuffer
  rw [deliver_cfg]
  split <;> rfl

/-! ### The handlers -/

/-- Bytes delivered before f runs have no part in what f answers, and still wait behind RXQ when it has run (R60). -/
def LeavesWaiting (f : State → Result) : Prop :=
  ∀ (bs : List Byte) (s t : State), f s = .next t → f (deliver bs s) = .next (deliver bs t)

theorem leavesWaiting_next {g : State → State} (hg : ∀ bs s, g (deliver bs s) = deliver bs (g s)) :
    LeavesWaiting fun s => .next (g s) := by
  intro bs s t h
  cases h
  exact congrArg Host.Outcome.next (hg bs s)

theorem LeavesWaiting.comp {f : State → Result} {g : State → State} (hf : LeavesWaiting f)
    (hg : ∀ bs s, g (deliver bs s) = deliver bs (g s)) : LeavesWaiting fun s => f (g s) := by
  intro bs s t h
  simp only [hg]
  exact hf bs _ t h

theorem LeavesWaiting.andThen {f g : State → Result} (hf : LeavesWaiting f) (hg : LeavesWaiting g) :
    LeavesWaiting fun s => andThen (f s) g := by
  intro bs s t h
  obtain ⟨u, hu, ht⟩ := andThen_eq_next.1 h
  exact andThen_eq_next.2 ⟨deliver bs u, hf bs s u hu, hg bs u t ht⟩

theorem advance_leavesWaiting (rect : Bool) : LeavesWaiting (advance rect) := by
  intro bs s t h
  cases rect with
  | false => cases h; rfl
  | true =>
    obtain ⟨-, hsize⟩ := advance_eq h
    by_cases hcol : s.col - 1 = 0
    · rw [advance_rowEnd (hsize rfl) hcol] at h
      cases h
      exact advance_rowEnd (s := deliver bs s) (hsize rfl) hcol
    · rw [advance_inside (hsize rfl) hcol] at h
      cases h
      exact advance_inside (s := deliver bs s) (hsize rfl) hcol

theorem storeMem_leavesWaiting (v : Byte) (rect : Bool) : LeavesWaiting (storeMem v rect) :=
  (advance_leavesWaiting rect).comp fun bs s => memWrite_deliver bs s.cur v s

theorem loadByte_leavesWaiting (target : Target) (rect : Bool) (b : Byte) : LeavesWaiting (loadByte target rect b) := by
  intro bs s t h
  unfold loadByte at h ⊢
  rw [deliver_ldPending]
  split at h
  · next hp => cases h; rw [if_pos hp]; rfl
  · next hp =>
    rw [if_neg hp]
    cases target with
    | mem => exact storeMem_leavesWaiting _ rect bs _ t h
    | record r => exact leavesWaiting_next (fun bs s => storeRec_deliver bs r _ s) bs _ t h

theorem fillOnce_leavesWaiting (rect : Bool) : LeavesWaiting (fillOnce rect) :=
  ((advance_leavesWaiting rect).comp fun bs s => memWrite_deliver bs s.cur s.fillValue s).andThen
    (leavesWaiting_next fun _ _ => rfl)

theorem fillLoop_leavesWaiting (rect : Bool) (n : Nat) : LeavesWaiting (fillLoop rect n) := by
  induction n with
  | zero => exact leavesWaiting_next fun _ _ => rfl
  | succ n ih => exact (fillOnce_leavesWaiting rect).andThen ih

/-- The state of a copy iteration before the cursor advances: the byte is read and written, the source moved on. -/
def copyMoved (s : State) : State :=
  let u := memWrite (memRead s.copyFrom s).2.cur (memRead s.copyFrom s).1 (memRead s.copyFrom s).2
  { u with copyFrom := u.copyFrom + 1 }

theorem copyOnce_eq (rect : Bool) (s : State) :
    copyOnce rect s = andThen (advance rect (copyMoved s)) fun u => .next { u with copyCount := u.copyCount - 1 } := rfl

theorem copyMoved_deliver (bs : List Byte) (s : State) : copyMoved (deliver bs s) = deliver bs (copyMoved s) := by
  simp only [copyMoved, deliver_copyFrom, memRead_deliver, deliver_cur, memWrite_deliver]
  rfl

theorem copyOnce_leavesWaiting (rect : Bool) : LeavesWaiting (copyOnce rect) :=
  ((advance_leavesWaiting rect).comp copyMoved_deliver).andThen (leavesWaiting_next fun _ _ => rfl)

theorem copyLoop_leavesWaiting (rect : Bool) (n : Nat) : LeavesWaiting (copyLoop rect n) := by
  induction n with
  | zero => exact leavesWaiting_next fun _ _ => rfl
  | succ n ih => exact (copyOnce_leavesWaiting rect).andThen ih

theorem dmaLoop_leavesWaiting (dir : DmaDir) (mode : DmaMode) (rect : Bool) (n : Nat) :
    LeavesWaiting (dmaLoop dir mode rect n) := by
  induction n with
  | zero => exact leavesWaiting_next fun _ _ => rfl
  | succ n ih =>
    intro bs s t h
    unfold dmaLoop at h ⊢
    rw [deliver_dmaCount, deliver_rectSize, dmaChunk_deliver]
    split at h
    · next hdone => cases h; rw [if_pos hdone]
    · next hmore =>
      rw [if_neg hmore]
      split at h
      · cases h
      · next hs =>
        rw [if_neg hs]
        split at h
        · cases h
        · next hfit => rw [if_neg hfit]; exact ih bs _ t h

theorem runStop_leavesWaiting (sh : StopHandler) : LeavesWaiting (runStop sh) := by
  cases sh with
  | nop => exact leavesWaiting_next fun _ _ => rfl
  | play x => exact leavesWaiting_next fun _ _ => rfl
  | updCommit sel => exact leavesWaiting_next fun bs s => updCommit_deliver bs sel s
  | flush bank => exact leavesWaiting_next fun bs s => flush_deliver bs bank bank s
  | fill rect => exact fun bs s => fillLoop_leavesWaiting rect s.fillCount.toNat bs (cursorInit s)
  | copy rect => exact fun bs s => copyLoop_leavesWaiting rect s.copyCount.toNat bs (cursorInit s)
  | dma dir mode rect =>
    exact fun bs s =>
      dmaLoop_leavesWaiting dir mode rect s.dmaCount.toNat bs { cursorInit s with dcur := s.dmaDevAddr }
  | run => exact leavesWaiting_next runBuffer_deliver

theorem runData_leavesWaiting (dh : DataHandler) (b : Byte) : LeavesWaiting (runData dh b) := by
  cases dh with
  | nop => exact leavesWaiting_next fun _ _ => rfl
  | updMask => exact leavesWaiting_next fun bs s => updCollect_deliver bs b s
  | updReg bank => exact leavesWaiting_next fun bs s => regByte_deliver bs bank b s
  | load target rect => exact loadByte_leavesWaiting target rect b

theorem exec_command_leavesWaiting (k : Kind) : LeavesWaiting (exec (k.instr .command)) := by
  intro bs s t h
  cases k <;> cases h <;> rfl

theorem startHandler_leavesWaiting {b : Byte} (hc : classify b = .data) : LeavesWaiting (startHandler b) := by
  intro bs s t h
  unfold startHandler at h ⊢
  rw [deliver_cfg, decodeCommand_data hc]
  rw [decodeCommand_data hc] at h
  cases hk : kindOf s.cfg (b.setWidth 7) <;> rw [hk] at h
  · cases h; rfl
  · next k => exact exec_command_leavesWaiting k bs s t h

/-! ### The byte step -/

theorem dataByte_leavesWaiting {b : Byte} (hc : classify b = .data) : LeavesWaiting (dataByte b) := by
  intro bs s t h
  unfold dataByte at h ⊢
  rw [deliver_fstate]
  cases hs : s.fstate <;> simp only [hs] at h ⊢
  · cases h; rfl
  · cases h; rfl
  · exact ((startHandler_leavesWaiting hc).andThen (leavesWaiting_next fun _ _ => rfl)) bs _ t h
  · exact runData_leavesWaiting s.dh b bs s t h

theorem frameStop_leavesWaiting : LeavesWaiting frameStop := fun bs s =>
  (runStop_leavesWaiting s.sh).andThen (leavesWaiting_next (g := endFrame) fun _ _ => rfl) bs s

theorem stepByte_leavesWaiting (b : Byte) : LeavesWaiting (stepByte b) := by
  intro bs s t h
  unfold stepByte at h ⊢
  cases hc : classify b <;> simp only [hc] at h ⊢
  · cases h; rfl
  · exact frameStop_leavesWaiting bs s t h
  · cases h; rfl
  · exact dataByte_leavesWaiting hc bs s t h

theorem step_deliver {s t : State} (bs : List Byte) (hq : s.plat.rxq ≠ []) (h : step s = .next t) :
    step (deliver bs s) = .next (deliver bs t) := by
  obtain ⟨b, rest, hbr⟩ := List.exists_cons_of_ne_nil hq
  have hbr' : (deliver bs s).plat.rxq = b :: (rest ++ bs) := congrArg (· ++ bs) hbr
  rw [step_cons hbr] at h
  rw [step_cons hbr']
  exact stepByte_leavesWaiting b bs _ t h

/-- Settles O13: each handler leaves what waits behind RXQ alone, and no step depends on RXPEND. -/
theorem bytesThatArriveLaterOnlyWait : Obligations.BytesThatArriveLaterOnlyWait := by
  intro s t bs hq h
  have hstep := step_deliver bs hq h
  exact ⟨hstep, (stepNeverDependsOnRxpend (deliver bs s) true).trans hstep⟩

end Sys2Proof.Machine
end

section
/-! SUPPORT. What a DMA transfer stores in plain RAM (20_memory.md R64): the byte it reads there is the byte it found
before the transfer, since a transfer writes only the memory it does not read. -/

namespace Sys2Proof.Machine

/-! ### Addresses of a transfer -/

theorem add_ofNat_succ {w : Nat} (x : BitVec w) (i : Nat) : x + BitVec.ofNat w (i + 1) = x + 1 + BitVec.ofNat w i := by
  rw [Nat.add_comm i, BitVec.ofNat_add, BitVec.add_assoc]
  rfl

/-- Fewer moves than there are addresses do not come back to where they began. -/
theorem add_one_add_ofNat_ne {w i : Nat} (x : BitVec w) (hi : i + 1 < 2 ^ w) : x + 1 + BitVec.ofNat w i ≠ x := by
  intro h
  have hzero : BitVec.ofNat w (i + 1) = 0 := by
    rw [← add_ofNat_succ] at h
    simpa using h
  have hnat := congrArg BitVec.toNat hzero
  rw [BitVec.toNat_ofNat, Nat.mod_eq_of_lt hi] at hnat
  simp at hnat

/-! ### One byte move -/

/-- Everything outside the engine is kept: no Exec was issued, and every host address is plain RAM (R62, R77). -/
def Platform.Plain (p : Platform) (c : Config) : Prop := ∀ a, p.keeps c a = true

theorem plain_of_plainRam {s : State} (h : s.plainRam) : s.plat.Plain s.cfg := by
  obtain ⟨hreleased, hranges⟩ := h
  intro a
  simp [Platform.keeps, Config.isIo, hreleased, hranges]

theorem Platform.Plain.released {p : Platform} {c : Config} (h : p.Plain c) : p.released = false := by
  have h0 := h 0
  unfold keeps at h0
  simp only [Bool.and_eq_true, Bool.not_eq_true'] at h0
  exact h0.1

/-- The byte that a move between these addresses reads. -/
def Platform.sourceByte (dir : DmaDir) (c : Config) (h : HostAddr) (d : DevAddr) (p : Platform) : Byte :=
  match dir with
  | .stash => (p.hostRead c h).1
  | .fetch => (p.devRead d).1

/-- The known byte where a move between these addresses writes, if any. -/
def Platform.targetKnown (dir : DmaDir) (h : HostAddr) (d : DevAddr) (p : Platform) : Option Byte :=
  match dir with
  | .stash => Memory.get? p.devMem d.toNat
  | .fetch => Memory.get? p.hostMem h.toNat

theorem Platform.devRead_plain {p : Platform} {c : Config} (hp : p.Plain c) (d : DevAddr) :
    p.devRead d = ((Memory.get? p.devMem d.toNat).getD (Config.powerOnDevice p.epoch d), p) := by
  simp [devRead, hp.released]

/-- A byte move in plain RAM is a write of the byte read. -/
theorem Platform.moveByte_plain {p : Platform} {c : Config} (hp : p.Plain c) (dir : DmaDir) (h : HostAddr)
    (d : DevAddr) : p.moveByte dir c h d =
      match dir with
      | .stash => p.devWrite d (p.sourceByte .stash c h d)
      | .fetch => p.hostWrite c h (p.sourceByte .fetch c h d) := by
  cases dir with
  | stash => simp only [moveByte, sourceByte, hostRead_keeps (hp h)]
  | fetch => simp only [moveByte, sourceByte, devRead_plain hp]

theorem Platform.plain_moveByte {p : Platform} {c : Config} (hp : p.Plain c) (dir : DmaDir) (h : HostAddr)
    (d : DevAddr) : (p.moveByte dir c h d).Plain c := by
  cases dir with
  | stash => rw [moveByte_stash_eq]; exact hp
  | fetch => rw [moveByte_fetch_eq]; exact hp

theorem Platform.moveByte_free_plain {p : Platform} {c : Config} (hp : p.Plain c) (dir : DmaDir) (h : HostAddr)
    (d : DevAddr) : (p.moveByte dir c h d).free = p.free := by
  rw [moveByte_plain hp]
  cases dir with
  | stash => dsimp only; rw [devWrite_eq]
  | fetch => dsimp only; rw [hostWrite_eq]

/-- A byte move does not write the memory that its direction reads. -/
theorem Platform.sourceByte_moveByte {p : Platform} {c : Config} (hp : p.Plain c) (dir : DmaDir)
    (h h' : HostAddr) (d d' : DevAddr) :
    (p.moveByte dir c h d).sourceByte dir c h' d' = p.sourceByte dir c h' d' := by
  have hp' := plain_moveByte hp dir h d
  cases dir with
  | stash =>
    simp only [sourceByte, hostRead_keeps (hp _), hostRead_keeps (hp' _)]
    rw [moveByte_stash_eq]
  | fetch =>
    simp only [sourceByte, devRead_plain hp, devRead_plain hp']
    rw [moveByte_fetch_eq]

theorem Platform.targetKnown_moveByte {p : Platform} {c : Config} (hp : p.Plain c) (dir : DmaDir) (h : HostAddr)
    (d : DevAddr) : (p.moveByte dir c h d).targetKnown dir h d = some (p.sourceByte dir c h d) := by
  rw [moveByte_plain hp]
  cases dir with
  | stash => exact (get_devWrite ..).trans (if_pos ⟨hp.released, rfl⟩)
  | fetch => exact (get_hostWrite ..).trans (if_pos ⟨hp h, rfl⟩)

/-! ### The moves of a transfer -/

theorem Platform.moveBytes_free_plain {p : Platform} {c : Config} (hp : p.Plain c) (dir : DmaDir) (n : Nat)
    (h : HostAddr) (d : DevAddr) : (moveBytes dir c n h d p).free = p.free := by
  induction n generalizing h d p with
  | zero => rfl
  | succ n ih => rw [moveBytes, ih (plain_moveByte hp dir h d), moveByte_free_plain hp]

/-- Moves that begin behind an address do not come back to it while there are fewer of them than host addresses. -/
theorem Platform.targetKnown_moveBytes_behind (dir : DmaDir) (c : Config) {n : Nat} (hn : n < 2 ^ 16) (h : HostAddr)
    (d : DevAddr) (p : Platform) :
    (moveBytes dir c n (h + 1) (d + 1) p).targetKnown dir h d = p.targetKnown dir h d := by
  cases dir with
  | stash => exact moveBytes_devMem_other _ _ _ _ _ _ fun _ i hi => add_one_add_ofNat_ne d (by omega)
  | fetch => exact moveBytes_hostMem_other _ _ _ _ _ _ fun _ i hi => add_one_add_ofNat_ne h (by omega)

/-- Byte i of a transfer arrives at address i as it was before the transfer (R64). -/
theorem Platform.targetKnown_moveBytes {p : Platform} {c : Config} (hp : p.Plain c) (dir : DmaDir) {n i : Nat}
    (hn : n ≤ 2 ^ 16) (hi : i < n) (h : HostAddr) (d : DevAddr) :
    (moveBytes dir c n h d p).targetKnown dir (h + BitVec.ofNat 16 i) (d + BitVec.ofNat 24 i) =
      some (p.sourceByte dir c (h + BitVec.ofNat 16 i) (d + BitVec.ofNat 24 i)) := by
  induction n generalizing h d p i with
  | zero => omega
  | succ n ih =>
    rw [moveBytes]
    cases i with
    | zero =>
      rw [BitVec.add_zero, BitVec.add_zero, targetKnown_moveBytes_behind _ _ (by omega), targetKnown_moveByte hp]
    | succ i =>
      rw [add_ofNat_succ, add_ofNat_succ, ih (plain_moveByte hp dir h d) (by omega) (by omega),
        sourceByte_moveByte hp]

/-! ### The transfer -/

/-- The platform whose bytes a transfer of length n moves: the event issued, the length in the device's register. -/
def triggered (dir : DmaDir) (n : Byte) (h : HostAddr) (d : DevAddr) (s : State) : Platform :=
  { (emit (.dmaXfer dir n h d) s).plat with devLen := .holds n }

theorem dmaXfer_plat (dir : DmaDir) (n : Byte) (h : HostAddr) (d : DevAddr) (s : State) :
    (dmaXfer dir n h d s).plat =
      { Platform.moveBytes dir s.cfg n.toNat h d (triggered dir n h d s) with devLen := s.plat.lengthAfter } := rfl

theorem plain_triggered {s : State} (hs : s.plainRam) (dir : DmaDir) (n : Byte) (h : HostAddr) (d : DevAddr) :
    (triggered dir n h d s).Plain s.cfg := plain_of_plainRam hs

theorem dmaXfer_free {s : State} (hs : s.plainRam) (dir : DmaDir) (n : Byte) (h : HostAddr) (d : DevAddr) :
    (dmaXfer dir n h d s).plat.free = s.plat.free := by
  rw [dmaXfer_plat]
  exact Platform.moveBytes_free_plain (plain_triggered hs dir n h d) dir n.toNat h d

theorem lengthAfter_plainRam {s : State} (hs : s.plainRam) : s.plat.lengthAfter = .forgotten := by
  obtain ⟨hreleased, -⟩ := hs
  unfold Platform.lengthAfter
  rw [hreleased]
  rfl

theorem dmaXfer_stash_devKnown {s : State} (hs : s.plainRam) {n : Byte} {i : Nat} (hi : i < n.toNat) (h : HostAddr)
    (d : DevAddr) :
    (dmaXfer .stash n h d s).devKnown (d + BitVec.ofNat 24 i) = some (s.hostByte (h + BitVec.ofNat 16 i)) := by
  have hp := plain_triggered hs .stash n h d
  have hmoved := Platform.targetKnown_moveBytes hp .stash (by omega) hi h d
  rw [State.devKnown, dmaXfer_plat, State.hostByte, Platform.hostRead_keeps (plain_of_plainRam hs _)]
  rw [Platform.sourceByte, Platform.hostRead_keeps (hp _)] at hmoved
  exact hmoved

theorem dmaXfer_fetch_hostKnown {s : State} (hs : s.plainRam) {n : Byte} {i : Nat} (hi : i < n.toNat) (h : HostAddr)
    (d : DevAddr) :
    (dmaXfer .fetch n h d s).hostKnown (h + BitVec.ofNat 16 i) = some (s.devByte (d + BitVec.ofNat 24 i)) := by
  have hp := plain_triggered hs .fetch n h d
  have hmoved := Platform.targetKnown_moveBytes hp .fetch (by omega) hi h d
  rw [State.hostKnown, dmaXfer_plat, State.devByte, Platform.devRead_plain (plain_of_plainRam hs)]
  rw [Platform.sourceByte, Platform.devRead_plain hp] at hmoved
  exact hmoved

theorem dmaXfer_stash_devKnown_other (n : Byte) (h : HostAddr) (d x : DevAddr) (s : State)
    (hx : ∀ i < n.toNat, d + BitVec.ofNat 24 i ≠ x) : (dmaXfer .stash n h d s).devKnown x = s.devKnown x := by
  rw [State.devKnown, dmaXfer_plat]
  exact Platform.moveBytes_devMem_other .stash s.cfg n.toNat h d (triggered .stash n h d s) fun _ => hx

theorem dmaXfer_fetch_hostKnown_other (n : Byte) (h x : HostAddr) (d : DevAddr) (s : State)
    (hx : ∀ i < n.toNat, h + BitVec.ofNat 16 i ≠ x) : (dmaXfer .fetch n h d s).hostKnown x = s.hostKnown x := by
  rw [State.hostKnown, dmaXfer_plat]
  exact Platform.moveBytes_hostMem_other .fetch s.cfg n.toNat h d (triggered .fetch n h d s) fun _ => hx

/-- Settles O44: each byte move writes the byte it finds, to an address no other move of the transfer writes. -/
theorem dmaTransferMovesItsBytes : Obligations.DmaTransferMovesItsBytes := by
  intro n h d s hs
  refine ⟨⟨_, rfl, ?_, fun i hi => dmaXfer_stash_devKnown hs hi h d,
      fun x => dmaXfer_stash_devKnown_other n h d x s⟩,
    ⟨_, rfl, ?_, fun i hi => dmaXfer_fetch_hostKnown hs hi h d,
      fun x => dmaXfer_fetch_hostKnown_other n h x d s⟩⟩
  · rw [dmaXfer_stash_eq, dmaXfer_free hs, lengthAfter_plainRam hs]
  · rw [dmaXfer_fetch_eq, dmaXfer_free hs, lengthAfter_plainRam hs]

end Sys2Proof.Machine
end

section
/-! SUPPORT. The decoder gives back what the encoder wrote (30_encoding.md R90 to R98). -/

namespace Sys2Proof.Machine

/-! ### One instruction -/

theorem instr_kind_part (i : Instr) : i.kind.instr i.part = i := by cases i <;> rfl

/-- The command byte of an implemented kind selects it (R95). -/
theorem decodeCommand_code {c : Config} {k : Kind} (hd : c.codesDistinct) (hk : c.has k = true) :
    decodeCommand c ((c.code k).setWidth 8) = .ok (k.instr .command) := by
  rw [decodeCommand_data (classify_setWidth _), setWidth_setWidth, kindOf_code hd hk]

theorem decodeInFrame_data {b : Byte} (hb : b.msb = false) (k : Kind) :
    decodeInFrame k b = .ok (k.instr (.data b)) := by
  rw [decodeInFrame, classify_data.2 hb]

theorem decodeInFrame_stop (k : Kind) : decodeInFrame k 0xF7#8 = .ok (k.instr .stop) := by
  rw [decodeInFrame, classify_frameStop.2 rfl]

/-- Settles O17: one decoder for each part of a frame. -/
theorem decodeOfEncodeIsTheInstruction : Obligations.DecodeOfEncodeIsTheInstruction := by
  intro c i hd hk hwf
  refine ⟨encodePart c i.kind i.part, rfl, ?_⟩
  unfold Instr.context
  unfold Instr.wf at hwf
  have hi := instr_kind_part i
  cases hp : i.part with
  | command => rw [hp] at hi; exact (decodeCommand_code hd hk).trans (congrArg _ hi)
  | data b =>
    rw [hp] at hi hwf
    have hb : b.msb = false := by simpa [FramePart.wf] using hwf
    exact (decodeInFrame_data hb _).trans (congrArg _ hi)
  | stop => rw [hp] at hi; exact (decodeInFrame_stop _).trans (congrArg _ hi)

/-! ### A whole frame -/

theorem skipRealTime_cons {b : Byte} (hb : classify b ≠ .realTime) (bs : List Byte) :
    skipRealTime (b :: bs) = b :: bs := if_neg hb

theorem skipRealTime_setWidth (x : Septet) (bs : List Byte) :
    skipRealTime (x.setWidth 8 :: bs) = x.setWidth 8 :: bs :=
  skipRealTime_cons (by rw [classify_setWidth]; decide) bs

/-- The payload ends at the frame stop (R93). -/
theorem decodePayload_append_stop {payload : List Byte} (hwf : ∀ b ∈ payload, b.msb = false) (rest : List Byte) :
    decodePayload (payload ++ 0xF7#8 :: rest) = .ok (payload, rest) := by
  induction payload with
  | nil => rw [List.nil_append, decodePayload, classify_frameStop.2 rfl]
  | cons b bs ih =>
    obtain ⟨hb, hbs⟩ := List.forall_mem_cons.1 hwf
    rw [List.cons_append, decodePayload, classify_data.2 hb, ih hbs]
    rfl

theorem decodeBody_code {c : Config} {k : Kind} {payload : List Byte} (hd : c.codesDistinct) (hk : c.has k = true)
    (hwf : ∀ b ∈ payload, b.msb = false) (rest : List Byte) :
    decodeBody c ((c.code k).setWidth 8 :: (payload ++ 0xF7#8 :: rest)) = .ok (⟨k, payload⟩, rest) := by
  rw [decodeBody, skipRealTime_setWidth]
  simp only [decodeCommand_code hd hk, decodePayload_append_stop hwf, Except.map, Kind.instr_kind]

theorem decodeAddressed_manuf (c : Config) (bs : List Byte) :
    decodeAddressed c (c.manufId.setWidth 8 :: bs) = decodeBody c bs := by
  rw [decodeAddressed, skipRealTime_setWidth]
  exact if_pos rfl

theorem decodeFrame_frameStart (c : Config) (bs : List Byte) :
    decodeFrame c (0xF0#8 :: bs) = decodeAddressed c bs := by
  rw [decodeFrame, skipRealTime_cons (by decide)]
  exact if_pos rfl

/-- Settles O18: frame start, manufacturer and command byte are taken one by one, then the payload up to its stop. -/
theorem decodeFrameOfEncodeFrameIsTheFrame : Obligations.DecodeFrameOfEncodeFrameIsTheFrame := by
  intro c f rest hd hk hwf
  have hdata : ∀ b ∈ f.payload, b.msb = false := by simpa [Frame.wf] using hwf
  rw [encodeFrame_eq]
  simp only [List.cons_append, List.append_assoc, List.nil_append]
  rw [decodeFrame_frameStart, decodeAddressed_manuf, decodeBody_code hd hk hdata]

/-! ### The opcode table -/

/-- All data bytes but the 22 default command codes are no command (R97). -/
theorem unknownTableWords_length :
    ((List.range 128).filter fun n => (decodeTableWord 8 n).isNone).length = 106 := by decide

/-- Settles O16: the default parameters are closed data, on which the decoder evaluates. -/
theorem tableWordsDecodeToTheirCommands : Obligations.TableWordsDecodeToTheirCommands :=
  ⟨by decide, by decide, by decide, by decide, by decide, by decide, by decide, by decide, unknownTableWords_length⟩

end Sys2Proof.Machine
end

section
/-! SUPPORT. What the packer emits for each group and for a whole byte sequence (30_encoding.md R107). -/

namespace Sys2Proof.Machine

theorem pack7_group {g : List Byte} (hne : g ≠ []) (hg : g.length ≤ 7) : pack7 g = packGroup g := by
  rw [pack7_eq hne, List.take_of_length_le hg, List.drop_eq_nil_of_le hg, pack7, List.append_nil]

theorem pack7_append {g : List Byte} (hg : g.length = 7) (rest : List Byte) :
    pack7 (g ++ rest) = pack7 g ++ pack7 rest := by
  have hne : g ≠ [] := List.ne_nil_of_length_pos (by omega)
  rw [pack7_eq (List.append_ne_nil_of_left_ne_nil hne rest), ← hg, List.take_left, List.drop_left,
    pack7_group hne hg.le]

/-- One mask byte for each group of up to 7 bytes (R107). -/
theorem pack7_length (bytes : List Byte) : (pack7 bytes).length = bytes.length + (bytes.length + 6) / 7 := by
  by_cases hne : bytes = []
  · subst hne; rfl
  · have : 0 < bytes.length := List.length_pos_iff.2 hne
    rw [pack7_eq hne, List.length_append, pack7_length (bytes.drop 7), packGroup, List.length_cons, List.length_map,
      List.length_take, List.length_drop]
    omega
termination_by bytes.length
decreasing_by simp; omega

/-- Settles O20: the packer's groups, and the unpacker that inverts it. -/
theorem unpackOfPackIsTheBytes : Obligations.UnpackOfPackIsTheBytes := by
  refine ⟨fun g hne hg => ⟨packMask g, pack7_group hne hg, packMask_msb g hg, fun i hi => ?_, fun i hi => ?_⟩,
    fun g rest hg => pack7_append hg rest,
    fun bytes => ⟨pack7_length bytes, ?_, unpackFrom_pack7 bytes 0⟩⟩
  · rw [getLsbD_packMask g (by omega), List.getElem?_eq_getElem hi]
    rfl
  · by_cases hi8 : i < 8
    · rw [getLsbD_packMask g hi8, List.getElem?_eq_none hi]
      rfl
    · exact BitVec.getLsbD_of_ge _ _ (by omega)
  · simpa using pack7_data bytes

end Sys2Proof.Machine
end

section
/-! SUPPORT. The framer's transition table, start handlers and what a frame without a payload ignores
(40_framer_dispatch.md R120 to R137). -/

namespace Sys2Proof.Machine

/-! ### The start handlers, START and STOP -/

/-- Only an implemented kind is selected by a code (R95). -/
theorem kindOf_ne_of_not_has {c : Config} {k : Kind} (hk : c.has k = false) (x : Septet) : kindOf c x ≠ some k := by
  intro h
  obtain ⟨-, himplemented⟩ := kindOf_some h
  simp [hk] at himplemented

/-- An unknown command installs no-op handlers (R131). -/
theorem startHandler_unknown {b : Byte} {s : State} (hc : classify b = .data)
    (hk : kindOf s.cfg (b.setWidth 7) = none) : startHandler b s = .next { s with dh := .nop, sh := .nop } := by
  unfold startHandler
  rw [decodeCommand_data hc, hk]
  rfl

/-- Settles O21: each row is the arm of its kind, and the NONE row an unknown code. -/
theorem startHandlersFollowTheTable : Obligations.StartHandlersFollowTheTable := by
  intro s
  refine ⟨rfl, rfl, rfl, rfl, rfl, rfl, rfl, rfl, rfl, rfl, rfl, rfl, rfl, rfl, rfl, rfl, rfl, rfl, rfl, rfl, rfl, rfl,
    fun b hb hk => startHandler_unknown (classify_data.2 hb) hk, fun x k hk => kindOf_ne_of_not_has hk x⟩

/-- Settles O23: the stop handler of START and of STOP is the Play primitive. -/
theorem startAndStopIssueTheirEvent : Obligations.StartAndStopIssueTheirEvent := fun _ => ⟨rfl, rfl⟩

/-! ### The transition table -/

theorem frameStop_eq (s : State) :
    frameStop s = andThen (runStop s.sh s) fun t => .next { t with dh := .nop, sh := .nop, fstate := .idle } := rfl

theorem dataByte_idle {b : Byte} {s : State} (hf : s.fstate = .idle) : dataByte b s = .next s := by
  unfold dataByte
  rw [hf]

theorem dataByte_awaitManuf {b : Byte} {s : State} (hf : s.fstate = .awaitManuf) :
    dataByte b s = .next { s with fstate := if b = s.cfg.manufId.setWidth 8 then .dispatch else .idle } := by
  unfold dataByte
  rw [hf]

theorem dataByte_inData {b : Byte} {s : State} (hf : s.fstate = .data) : dataByte b s = runData s.dh b s := by
  unfold dataByte
  rw [hf]

/-- A data byte in DISPATCH (R126). -/
theorem stepByte_dispatch {b : Byte} {s : State} (hc : classify b = .data) (hf : s.fstate = .dispatch) :
    stepByte b s =
      andThen (startHandler b { s with cmd := b.setWidth 7 }) fun t => .next { t with fstate := .data } := by
  rw [stepByte_data hc, dataByte_dispatch hf]
  rfl

/-- A data byte in DATA (R132). -/
theorem stepByte_inData {b : Byte} {s : State} (hc : classify b = .data) (hf : s.fstate = .data) :
    stepByte b s = runData s.dh b s := by
  rw [stepByte_data hc, dataByte_inData hf]

theorem eAbort_mem_conditions (s : State) : Cond.eAbort ∈ conditions 0xF0#8 s ↔ s.fstate = .data := by
  rw [conditions, classify_frameStart.2 rfl]
  by_cases hf : s.fstate = .data <;> simp [hf]

theorem eStrayStop_notMem_rectCond (rect : Bool) (n : BitVec 16) (s : State) :
    Cond.eStrayStop ∉ rectCond rect n s := by
  unfold rectCond
  split <;> simp

theorem eStrayStop_notMem_dmaCond (s : State) : Cond.eStrayStop ∉ dmaCond s := by
  unfold dmaCond
  split_ifs <;> simp

/-- No stop handler raises the stray-stop condition. -/
theorem eStrayStop_notMem_stopConds (s : State) : Cond.eStrayStop ∉ stopConds s := by
  unfold stopConds
  cases s.sh <;> dsimp only
  case fill rect => exact eStrayStop_notMem_rectCond rect _ s
  case copy rect => exact eStrayStop_notMem_rectCond rect _ s
  case dma dir mode rect => exact eStrayStop_notMem_dmaCond s
  case updCommit sel => split <;> simp
  case flush bank => split <;> simp
  all_goals simp

theorem eStrayStop_mem_conditions (s : State) : Cond.eStrayStop ∈ conditions 0xF7#8 s ↔ s.fstate = .idle := by
  rw [conditions, classify_frameStop.2 rfl]
  cases hf : s.fstate <;> simp [eStrayStop_notMem_stopConds]

/-- Settles O7: a clause for each byte class, and for a data byte one for each state of the framer. -/
theorem framerFollowsTheTransitionTable : Obligations.FramerFollowsTheTransitionTable := by
  intro s
  refine ⟨⟨stepByte_frameStart s, eAbort_mem_conditions s⟩,
    ⟨frameStop_eq s, eStrayStop_mem_conditions s, fun hdh hsh => ?_⟩, fun b hb h0 h7 => ?_, fun b hb => ?_⟩
  · rw [stepByte_frameStop, frameStop_eq, hsh, runStop, andThen_next, ← hdh, ← hsh]
  · have hc := classify_realTime.2 ⟨hb, h0, h7⟩
    exact ⟨stepByte_realTime hc s, by rw [conditions, hc]⟩
  · have hc := classify_data.2 hb
    refine ⟨fun hf => ?_, fun hf hm => ?_, fun hf hm => ⟨?_, ?_⟩, stepByte_dispatch hc, stepByte_inData hc⟩
    · rw [stepByte_data hc, dataByte_idle hf]
    · rw [stepByte_data hc, dataByte_awaitManuf hf, if_pos hm]
    · rw [stepByte_data hc, dataByte_awaitManuf hf, if_neg hm]
    · simp [conditions, hc, hf, hm]

/-- Settles O9: Step(F0) is the framer's frame start, in every state. -/
theorem frameStartAbortsAndTouchesNothingElse : Obligations.FrameStartAbortsAndTouchesNothingElse :=
  stepByte_frameStart

/-! ### Real-time bytes -/

theorem feed_filter_realTime (bs : List Byte) (s : State) :
    feed (bs.filter fun b => classify b ≠ .realTime) s = feed bs s := by
  induction bs generalizing s with
  | nil => rfl
  | cons b bs ih =>
    by_cases hc : classify b = .realTime
    · rw [List.filter_cons_of_neg (by simpa using hc), ih, feed, stepByte_realTime hc, andThen_next]
    · have hrest : feed (bs.filter fun b => classify b ≠ .realTime) = feed bs := funext ih
      rw [List.filter_cons_of_pos (by simpa using hc), feed, hrest, feed]

/-- Settles O8: Step of a real-time byte is the identity, so it drops out of any stream. -/
theorem realTimeBytesChangeNothing : Obligations.RealTimeBytesChangeNothing := by
  refine ⟨fun s b hc => stepByte_realTime hc s, fun s b rest hc hq => ?_, fun bs s => (feed_filter_realTime bs s).symm⟩
  exact ⟨_, (step_cons hq).trans (stepByte_realTime hc _), rfl⟩

/-! ### Frames whose data handler is NOP -/

/-- With the data handler NOP, data bytes of a frame change nothing (R130). -/
theorem feed_ignored {bs : List Byte} {s : State} (hf : s.fstate = .data) (hdh : s.dh = .nop)
    (hbs : ∀ b ∈ bs, b.msb = false) : feed bs s = .next s := by
  induction bs with
  | nil => rfl
  | cons b bs ih =>
    obtain ⟨hb, hbs⟩ := List.forall_mem_cons.1 hbs
    rw [feed, stepByte_inData (classify_data.2 hb) hf, hdh, runData, andThen_next, ih hbs]

theorem feed_ignored_append_stop {bs : List Byte} {s : State} (hf : s.fstate = .data) (hdh : s.dh = .nop)
    (hbs : ∀ b ∈ bs, b.msb = false) : feed (bs ++ [0xF7#8]) s = frameStop s := by
  rw [feed_append, feed_ignored hf hdh hbs, andThen_next, feed_singleton, stepByte_frameStop]

theorem forall_data_of_all {bs : List Byte} (h : bs.all (fun b => !b.msb) = true) : ∀ b ∈ bs, b.msb = false := by
  simpa using h

/-- A kind without a payload has the data handler NOP (R100, R128). -/
theorem startRow_dh_of_family_none {k : Kind} (h : k.family = .none) : (startRow k).1 = .nop := by
  revert h
  cases k <;> decide

/-- Settles O22: the data handler of these commands is NOP, which feeding any number of data bytes keeps. -/
theorem noPayloadCommandsIgnoreDataBytes : Obligations.NoPayloadCommandsIgnoreDataBytes := by
  refine ⟨fun k b s hk => ⟨startRow_dh_of_family_none hk, ?_⟩, fun c x hx => ?_, fun s bs hf hdh hbs => ?_⟩
  · rw [exec_data, startRow_dh_of_family_none hk, runData]
  · rw [handlersOf, hx]
  · have hdata := forall_data_of_all hbs
    exact ⟨feed_ignored hf hdh hdata, feed_ignored_append_stop hf hdh hdata⟩

/-- A code of no kind, in DISPATCH (R131). -/
theorem stepByte_unknown {b : Byte} {s : State} (hf : s.fstate = .dispatch) (hc : classify b = .data)
    (hk : kindOf s.cfg (b.setWidth 7) = none) :
    stepByte b s = .next { s with cmd := b.setWidth 7, dh := .nop, sh := .nop, fstate := .data } :=
  (stepByte_dispatch hc hf).trans
    (congrArg (andThen · _) (startHandler_unknown (s := { s with cmd := b.setWidth 7 }) hc hk))

/-- Settles O11: the frame of an unknown command has NOP handlers, which ignore its payload and its stop. -/
theorem unknownCommandIsConsumed : Obligations.UnknownCommandIsConsumed := by
  intro s b hf hc hk
  refine ⟨stepByte_unknown hf hc hk, by simp [conditions, hc, hf, hk], fun payload hdata => ?_⟩
  rw [feed, stepByte_unknown hf hc hk, andThen_next, feed_ignored_append_stop rfl rfl (forall_data_of_all hdata)]
  rfl

/-! ### The decoded instruction -/

/-- What decodes inside a frame is a payload byte or the frame stop (R90). -/
theorem decodeInFrame_ok {k : Kind} {b : Byte} {i : Instr} (h : decodeInFrame k b = .ok i) :
    (classify b = .data ∧ i = k.instr (.data b)) ∨ (b = 0xF7#8 ∧ i = k.instr .stop) := by
  unfold decodeInFrame at h
  cases hc : classify b <;> rw [hc] at h <;> cases h
  case frameStop => exact .inr ⟨classify_frameStop.1 hc, rfl⟩
  case data => exact .inl ⟨rfl, rfl⟩

/-- Only a data byte decodes to a command (R95, R97). -/
theorem classify_of_decodeCommand {c : Config} {b : Byte} {i : Instr} (h : decodeCommand c b = .ok i) :
    classify b = .data := by
  unfold decodeCommand at h
  cases hc : classify b with
  | data => rfl
  | frameStart | frameStop | realTime => rw [hc] at h; cases h

theorem startHandler_decoded {b : Byte} {i : Instr} {s : State} (h : decodeCommand s.cfg b = .ok i) :
    startHandler b s = exec i s := by
  unfold startHandler
  rw [h]

/-- Settles O6: DISPATCH runs exec of the decoded command, and the handlers in DATA are those of the kind's row, whose
parts exec runs. -/
theorem stepRunsTheDecodedInstruction : Obligations.StepRunsTheDecodedInstruction := by
  intro s r b rest hq hr
  have hstep : step s = stepByte b r := hr ▸ step_cons hq
  obtain ⟨hfr, hdhr, hshr, hcfg⟩ : r.fstate = s.fstate ∧ r.dh = s.dh ∧ r.sh = s.sh ∧ r.cfg = s.cfg := by simp [hr]
  rw [hstep, ← hcfg, ← hfr, ← hdhr, ← hshr]
  refine ⟨fun hf i hi => ?_, fun hf k hrow i hi => ?_⟩
  · have hstart := startHandler_decoded (s := { r with cmd := b.setWidth 7 }) hi
    exact (stepByte_dispatch (classify_of_decodeCommand hi) hf).trans (congrArg (andThen · _) hstart)
  · have hdh : r.dh = (startRow k).1 := congrArg Prod.fst hrow
    have hsh : r.sh = (startRow k).2 := congrArg Prod.snd hrow
    obtain ⟨hc, rfl⟩ | ⟨rfl, rfl⟩ := decodeInFrame_ok hi
    · refine ⟨fun _ => ?_, fun hstop => by simp at hstop⟩
      rw [stepByte_inData hc hf, exec_data, hdh]
    · refine ⟨fun hstop => by simp at hstop, fun _ => ?_⟩
      rw [stepByte_frameStop, frameStop_eq, exec_stop, hsh]

/-! ### A whole frame -/

theorem andThen_congr {r : Result} {f g : State → Result} (h : ∀ s, r = .next s → f s = g s) :
    andThen r f = andThen r g := by
  cases r with
  | next s => exact h s rfl
  | fault e => rfl
  | refused e => rfl

/-- The engine is in the frame of a command of kind k. -/
structure InFrame (k : Kind) (s : State) : Prop where
  fstate : s.fstate = .data
  dh : s.dh = (startRow k).1
  sh : s.sh = (startRow k).2

/-- A payload byte stays in its frame. -/
theorem InFrame.exec_data {k : Kind} {b : Byte} {s t : State} (hs : InFrame k s)
    (h : exec (k.instr (.data b)) s = .next t) : InFrame k t := by
  rw [Machine.exec_data] at h
  obtain ⟨ht, -⟩ := runData_eq h
  rw [ht]
  exact ⟨hs.fstate, hs.dh, hs.sh⟩

/-- In a frame of kind k the payload and the frame stop run the parts of k (R132, R133, R122). -/
theorem InFrame.feed_append_stop {k : Kind} {payload : List Byte} {s : State} (hs : InFrame k s)
    (hdata : ∀ b ∈ payload, b.msb = false) :
    feed (payload ++ [0xF7#8]) s =
      andThen (execParts k (payload.map .data ++ [.stop]) s) fun t => .next (endFrame t) := by
  induction payload generalizing s with
  | nil =>
    rw [List.nil_append, feed_singleton, stepByte_frameStop, frameStop, hs.sh, ← exec_stop]
    exact congrArg (andThen · _) (andThen_next_right _).symm
  | cons b bs ih =>
    obtain ⟨hb, hbs⟩ := List.forall_mem_cons.1 hdata
    rw [List.cons_append, feed, stepByte_inData (classify_data.2 hb) hs.fstate, hs.dh, ← Machine.exec_data,
      List.map_cons, List.cons_append, execParts, andThen_assoc]
    exact andThen_congr fun t ht => ih (hs.exec_data ht) hbs

/-- A start handler opens its frame, and where the framer stood has no part in it (R126, R128). -/
theorem exec_command_inData (k : Kind) (s : State) : ∃ t,
    exec (k.instr .command) { s with fstate := .data } = .next t ∧ InFrame k t ∧
    andThen (exec (k.instr .command) s) (fun u => .next { u with fstate := .data }) = .next t := by
  cases k <;> exact ⟨_, rfl, ⟨rfl, rfl, rfl⟩, rfl⟩

/-- Settles O19: the start handler opens the frame of its kind, in which every byte runs its part. -/
theorem wholeFrameRunsTheParts : Obligations.WholeFrameRunsTheParts := by
  intro s f hd hk hwf
  have hdata : ∀ b ∈ f.payload, b.msb = false := forall_data_of_all hwf
  have hstop : feed [0xF7#8] = frameStop := funext (feed_singleton _)
  obtain ⟨t, hexec, ht, hstart⟩ :=
    exec_command_inData f.kind { s with dh := .nop, sh := .nop, fstate := .dispatch, cmd := s.cfg.code f.kind }
  have hframe : feed (encodeFrame s.cfg f) s = feed (f.payload ++ [0xF7#8]) t := by
    rw [feed_encodeFrame f.payload hd hk, feed_append, hstop]
    exact (andThen_assoc _ (fun u => .next { u with fstate := .data })
      fun u => andThen (feed f.payload u) frameStop).symm.trans (congrArg (andThen · _) hstart)
  rw [hframe, ht.feed_append_stop hdata]
  unfold Frame.parts
  rw [List.append_assoc, List.singleton_append, execParts]
  exact congrArg (fun r => andThen (andThen r _) _) hexec.symm

end Sys2Proof.Machine
end

section
/-! SUPPORT. Every step keeps the invariant: the platform's half of it through the ports of 20_memory.md R62 to R65, the
working registers' half through the handlers (40_framer_dispatch.md R128 to R135). -/

namespace Sys2Proof.Machine

/-! ### What a start handler initialises -/

/-- How the working registers of an installed data handler begin, and which one a bitmask commit goes with (R128). -/
structure StartInits (s t : State) : Prop where
  collect : t.dh = .updMask → t.ucnt = 0
  pair : ∀ bank, t.dh = .updReg bank → t.urHave = false
  load : ∀ target rect, t.dh = .load target rect → t.ldPending = 0 ∧ t.ldIdx = 0
  cursor : ∀ rect, t.dh = .load .mem rect → t.cur = s.bufAddr ∧ t.col = s.rectSize
  commit : ∀ sel, t.sh = .updCommit sel → t.dh = .updMask

theorem exec_command_inits {k : Kind} {s t : State} (h : exec (k.instr .command) s = .next t) : StartInits s t := by
  cases k <;> cases h <;> constructor <;>
    simp [updStart, regStart, recordStart, loadStart, install, loaderReset, cursorInit]

theorem startHandler_inits {b : Byte} {s t : State} (hc : classify b = .data) (h : startHandler b s = .next t) :
    StartInits s t := by
  unfold startHandler at h
  rw [decodeCommand_data hc] at h
  cases hk : kindOf s.cfg (b.setWidth 7) <;> rw [hk] at h
  case none => cases h; constructor <;> simp [install]
  case some k => exact exec_command_inits h

/-! ### The platform -/

/-- The memories keep their form, and after an Exec they list nothing (R67, R262). -/
structure Platform.Sound (p : Platform) : Prop where
  wf : p.memWf
  blank : p.released = true → p.hostMem = [] ∧ p.devMem = [] ∧ p.chip0 = [] ∧ p.chip1 = []

/-- What the invariant says of the platform. -/
structure Platform.Inv (p : Platform) : Prop extends p.Sound where
  forgotten : ∀ n, p.devLen ≠ .holds n
  unknown : p.released = true → p.devLen = .unknown

theorem State.Inv.platform {s : State} (h : s.Inv) : s.plat.Inv where
  wf := ⟨h.host, h.dev, h.chip0, h.chip1⟩
  blank := fun hr => by
    obtain ⟨hhost, hdev, hchip0, hchip1, -⟩ := h.unknown hr
    exact ⟨hhost, hdev, hchip0, hchip1⟩
  forgotten := h.forgotten
  unknown := fun hr => by
    obtain ⟨-, -, -, -, hlen⟩ := h.unknown hr
    exact hlen

theorem Platform.hostWrite_released {p : Platform} (hr : p.released = true) (c : Config) (a : HostAddr) (v : Byte) :
    p.hostWrite c a v = p := by simp [hostWrite, keeps, hr]

theorem Platform.devWrite_released {p : Platform} (hr : p.released = true) (d : DevAddr) (v : Byte) :
    p.devWrite d v = p := by simp [devWrite, hr]

theorem Platform.chipSet_released {p : Platform} (hr : p.released = true) (c : Config) (chip : Chip) (o : Offset)
    (v : Byte) : p.chipSet c chip o v = p := by simp [chipSet, keepsChip, hr]

theorem Platform.Sound.hostWrite {p : Platform} (h : p.Sound) (c : Config) (a : HostAddr) (v : Byte) :
    (p.hostWrite c a v).Sound := by
  refine ⟨memWf_hostWrite c a v h.wf, fun hr => ?_⟩
  have hp : p.released = true := by rw [hostWrite_eq] at hr; exact hr
  rw [hostWrite_released hp]
  exact h.blank hp

theorem Platform.Sound.devWrite {p : Platform} (h : p.Sound) (d : DevAddr) (v : Byte) : (p.devWrite d v).Sound := by
  refine ⟨memWf_devWrite d v h.wf, fun hr => ?_⟩
  have hp : p.released = true := by rw [devWrite_eq] at hr; exact hr
  rw [devWrite_released hp]
  exact h.blank hp

theorem Platform.Sound.chipSet {p : Platform} (h : p.Sound) (c : Config) (chip : Chip) (o : Offset) (v : Byte) :
    (p.chipSet c chip o v).Sound := by
  refine ⟨memWf_chipSet c chip o v h.wf, fun hr => ?_⟩
  have hp : p.released = true := by rw [chipSet_eq] at hr; exact hr
  rw [chipSet_released hp]
  exact h.blank hp

theorem Platform.Sound.hostRead {p : Platform} (h : p.Sound) (c : Config) (a : HostAddr) :
    (p.hostRead c a).2.Sound := by
  rw [hostRead_snd_eq]
  exact ⟨{ h.wf with }, h.blank⟩

theorem Platform.Sound.devRead {p : Platform} (h : p.Sound) (d : DevAddr) : (p.devRead d).2.Sound := by
  rw [devRead_snd_eq]
  exact ⟨{ h.wf with }, h.blank⟩

theorem Platform.Sound.moveByte {p : Platform} (hp : p.Sound) (dir : DmaDir) (c : Config) (h : HostAddr) (d : DevAddr) :
    (p.moveByte dir c h d).Sound := by
  cases dir with
  | stash => exact (hp.hostRead c h).devWrite d _
  | fetch => exact (hp.devRead d).hostWrite c h _

theorem Platform.Sound.moveBytes {p : Platform} (hp : p.Sound) (dir : DmaDir) (c : Config) (n : Nat) (h : HostAddr)
    (d : DevAddr) : (Platform.moveBytes dir c n h d p).Sound := by
  induction n generalizing h d p with
  | zero => exact hp
  | succ n ih => exact ih (hp.moveByte dir c h d) (h + 1) (d + 1)

/-- RXQ and the events have no part in it. -/
theorem Platform.Inv.withQueue {p : Platform} (h : p.Inv) (rxq : List Byte) (events : List Event) :
    { p with rxq := rxq, events := events }.Inv :=
  ⟨⟨{ h.wf with }, h.blank⟩, h.forgotten, h.unknown⟩

/-- A port that leaves the length register alone. -/
theorem Platform.Inv.of_sound {p q : Platform} (h : p.Inv) (hq : q.Sound) (hr : q.released = p.released)
    (hl : q.devLen = p.devLen) : q.Inv :=
  ⟨hq, by rw [hl]; exact h.forgotten, by rw [hr, hl]; exact h.unknown⟩

theorem Platform.inv_release (p : Platform) : p.release.Inv :=
  ⟨⟨memWf_release p, fun _ => ⟨rfl, rfl, rfl, rfl⟩⟩, fun _ => nofun, fun _ => rfl⟩

/-! ### The ports -/

theorem platInv_emit {s : State} (h : s.plat.Inv) (e : Event) : (emit e s).plat.Inv := h.withQueue _ _

theorem platInv_memRead {s : State} (h : s.plat.Inv) (a : HostAddr) : (memRead a s).2.plat.Inv :=
  (platInv_emit h (.memRead a)).of_sound ((platInv_emit h _).hostRead s.cfg a) (by rw [memRead_snd_eq]; rfl)
    (by rw [memRead_snd_eq]; rfl)

theorem platInv_memWrite {s : State} (h : s.plat.Inv) (a : HostAddr) (v : Byte) : (memWrite a v s).plat.Inv :=
  (platInv_emit h (.memWrite a v)).of_sound ((platInv_emit h _).hostWrite s.cfg a v) (by rw [memWrite_eq]; rfl)
    (by rw [memWrite_eq]; rfl)

theorem platInv_chipWrite {s : State} (h : s.plat.Inv) (c : Chip) (o : Offset) (v : Byte) :
    (chipWrite c o v s).plat.Inv :=
  (platInv_emit h (.chipWrite c o v)).of_sound ((platInv_emit h _).chipSet s.cfg c o v) (by rw [chipWrite_eq]; rfl)
    (by rw [chipWrite_eq]; rfl)

theorem dmaXfer_released (dir : DmaDir) (n : Byte) (h : HostAddr) (d : DevAddr) (s : State) :
    (dmaXfer dir n h d s).plat.released = s.plat.released := by
  cases dir with
  | stash => rw [dmaXfer_stash_eq]
  | fetch => rw [dmaXfer_fetch_eq]

/-- A transfer leaves no length behind (R64). -/
theorem platInv_dmaXfer {s : State} (hs : s.plat.Inv) (dir : DmaDir) (n : Byte) (h : HostAddr) (d : DevAddr) :
    (dmaXfer dir n h d s).plat.Inv := by
  have htriggered : (triggered dir n h d s).Sound := ⟨{ hs.wf with }, hs.blank⟩
  have hmoved := htriggered.moveBytes dir s.cfg n.toNat h d
  have hlen : (dmaXfer dir n h d s).plat.devLen = s.plat.lengthAfter := rfl
  refine ⟨⟨{ hmoved.wf with }, hmoved.blank⟩, fun m => ?_, fun hr => ?_⟩
  · rw [hlen, Platform.lengthAfter]
    split <;> nofun
  · rw [dmaXfer_released] at hr
    rw [hlen, Platform.lengthAfter, if_pos hr]

/-! ### The platform under the handlers -/

theorem platInv_flush {s : State} (h : s.plat.Inv) (bank chip : Chip) : (flush bank chip s).plat.Inv :=
  List.foldlRecOn (motive := fun t : State => t.plat.Inv) _ _ h fun _ ht o _ => platInv_chipWrite ht chip o _

theorem platInv_updFlush {s : State} (h : s.plat.Inv) (sel : UpdSel) : (updFlush sel s).plat.Inv := by
  cases sel with
  | chip0 => exact platInv_flush h 0 0
  | chip1 => exact platInv_flush h 1 1
  | both => exact platInv_flush (platInv_flush h 0 0) 0 1

theorem platInv_updCommit {s : State} (h : s.plat.Inv) (sel : UpdSel) : (updCommit sel s).plat.Inv := by
  unfold updCommit
  split
  · refine platInv_updFlush ?_ sel
    rw [decodeUpdate, applyPairs_eq]
    exact h
  · exact h

theorem platInv_advance {rect : Bool} {s t : State} (h : advance rect s = .next t) (hs : s.plat.Inv) : t.plat.Inv := by
  obtain ⟨ht, -⟩ := advance_eq h
  rw [ht]
  exact hs

theorem platInv_fillLoop {rect : Bool} {n : Nat} {s t : State} (h : fillLoop rect n s = .next t) (hs : s.plat.Inv) :
    t.plat.Inv := by
  induction n generalizing s with
  | zero => cases h; exact hs
  | succ n ih =>
    obtain ⟨u, honce, hloop⟩ := andThen_eq_next.1 h
    obtain ⟨w, hadv, hu⟩ := andThen_eq_next.1 honce
    cases hu
    have hw := platInv_advance hadv (platInv_memWrite hs _ _)
    exact ih hloop hw

theorem platInv_copyMoved {s : State} (h : s.plat.Inv) : (copyMoved s).plat.Inv :=
  platInv_memWrite (platInv_memRead h s.copyFrom) (memRead s.copyFrom s).2.cur (memRead s.copyFrom s).1

theorem platInv_copyLoop {rect : Bool} {n : Nat} {s t : State} (h : copyLoop rect n s = .next t) (hs : s.plat.Inv) :
    t.plat.Inv := by
  induction n generalizing s with
  | zero => cases h; exact hs
  | succ n ih =>
    obtain ⟨u, honce, hloop⟩ := andThen_eq_next.1 h
    rw [copyOnce_eq] at honce
    obtain ⟨w, hadv, hu⟩ := andThen_eq_next.1 honce
    cases hu
    have hw := platInv_advance hadv (platInv_copyMoved hs)
    exact ih hloop hw

theorem platInv_dmaLoop {dir : DmaDir} {mode : DmaMode} {rect : Bool} {n : Nat} {s t : State}
    (h : dmaLoop dir mode rect n s = .next t) (hs : s.plat.Inv) : t.plat.Inv := by
  induction n generalizing s with
  | zero => cases h; exact hs
  | succ n ih =>
    unfold dmaLoop at h
    split_ifs at h
    · cases h; exact hs
    · refine ih h ?_
      rw [dmaChunk_eq]
      exact platInv_dmaXfer hs dir _ _ _

theorem platInv_runStop {sh : StopHandler} {s t : State} (h : runStop sh s = .next t) (hs : s.plat.Inv) :
    t.plat.Inv := by
  cases sh with
  | nop => cases h; exact hs
  | play x => cases h; exact platInv_emit hs _
  | updCommit sel => cases h; exact platInv_updCommit hs sel
  | flush bank => cases h; exact platInv_flush hs bank bank
  | fill rect => exact platInv_fillLoop h hs
  | copy rect => exact platInv_copyLoop h hs
  | dma dir mode rect => exact platInv_dmaLoop h hs
  | run =>
    cases h
    unfold runBuffer
    split
    · exact Platform.inv_release _
    · exact hs

theorem platInv_runData {dh : DataHandler} {b : Byte} {s t : State} (h : runData dh b s = .next t) (hs : s.plat.Inv) :
    t.plat.Inv := by
  cases dh with
  | nop => cases h; exact hs
  | updMask => cases h; rw [updCollect_eq]; exact hs
  | updReg bank => cases h; rw [regByte_eq]; exact hs
  | load target rect =>
    cases target with
    | mem =>
      simp only [runData, loadByte] at h
      split at h
      · cases h; exact hs
      · exact platInv_advance h (platInv_memWrite (s := { s with
          ldMask := s.ldMask >>> 1, ldPending := s.ldPending - 1 }) hs _ _)
    | record r =>
      rw [runData, loadByte_record] at h
      cases h
      split
      · exact hs
      · rw [storeRec_eq]; exact hs

/-! ### The working registers under the data handlers -/

/-- UPD_MASK counts to 37 at most (R44, R153). -/
theorem updCollect_ucnt (b : Byte) (s : State) : (updCollect b s).ucnt.toNat ≤ 37 := by
  unfold updCollect
  split
  · next hlt =>
    rw [BitVec.toNat_add]
    exact le_trans (Nat.mod_le _ _) (by simp; omega)
  · exact Nat.le_refl 37

theorem storeRec_ldIdx_le {r : Record} {s : State} (h : s.ldIdx.toNat ≤ r.length) (v : Byte) :
    (storeRec r v s).ldIdx.toNat ≤ r.length := by
  obtain hlt | hend := h.lt_or_eq
  · rw [storeRec_ldIdx hlt]; exact hlt
  · rw [storeRec_beyond hend.ge]; exact h

/-- COL stays between 1 and RECT_SIZE: it counts down to 1 and returns to RECT_SIZE (R204). -/
theorem advance_col {s t : State} (h : advance true s = .next t) (h1 : 1 ≤ s.col.toNat)
    (hle : s.col.toNat ≤ s.rectSize.toNat) : 1 ≤ t.col.toNat ∧ t.col.toNat ≤ s.rectSize.toNat := by
  obtain ⟨-, hsize⟩ := advance_eq h
  by_cases hc : s.col - 1 = 0
  · rw [advance_rowEnd (hsize rfl) hc] at h
    cases h
    exact ⟨by simp only; omega, le_refl _⟩
  · rw [advance_inside (hsize rfl) hc] at h
    cases h
    bv_omega

theorem runData_count {dh : DataHandler} {b : Byte} {s t : State} (h : runData dh b s = .next t)
    (hs : s.ucnt.toNat ≤ 37) : t.ucnt.toNat ≤ 37 := by
  obtain ⟨-, -, hcollect, -⟩ := runData_eq h
  by_cases hkept : t.ucnt = s.ucnt
  · rw [hkept]; exact hs
  · obtain rfl := hcollect (.inr hkept)
    cases h
    exact updCollect_ucnt b s

theorem loadByte_record_index {r : Record} {rect : Bool} {b : Byte} {s t : State}
    (h : loadByte (.record r) rect b s = .next t) (hs : s.ldIdx.toNat ≤ r.length) : t.ldIdx.toNat ≤ r.length := by
  rw [loadByte_record] at h
  cases h
  split
  · exact hs
  · refine storeRec_ldIdx_le ?_ _
    exact hs

theorem loadByte_mem_column {b : Byte} {s t : State} (h : loadByte .mem true b s = .next t) (h1 : 1 ≤ s.col.toNat)
    (hle : s.col.toNat ≤ s.rectSize.toNat) : 1 ≤ t.col.toNat ∧ t.col.toNat ≤ s.rectSize.toNat := by
  unfold loadByte at h
  split at h
  · cases h; exact ⟨h1, hle⟩
  · have hadv : storeMem (withHigh b (s.ldMask.getLsbD 0)) true
        { s with ldMask := s.ldMask >>> 1, ldPending := s.ldPending - 1 } = .next t := h
    have hcol := advance_col hadv h1 hle
    exact hcol

/-! ### The invariant -/

/-- Outside DATA with NOP handlers, the invariant speaks of UCNT and the platform alone. -/
theorem State.Inv.of_nop {s : State} (hf : s.fstate ≠ .data) (hdh : s.dh = .nop) (hsh : s.sh = .nop)
    (hcount : s.ucnt.toNat ≤ 37) (hp : s.plat.Inv) : s.Inv where
  outside := fun _ => ⟨hdh, hsh⟩
  inside := fun h => absurd h hf
  count := hcount
  index := fun r rect h => by rw [hdh] at h; cases h
  column := fun h => by rw [hdh] at h; cases h
  host := hp.wf.host
  dev := hp.wf.dev
  chip0 := hp.wf.chip0
  chip1 := hp.wf.chip1
  forgotten := hp.forgotten
  unknown := fun hr => by
    obtain ⟨hhost, hdev, hchip0, hchip1⟩ := hp.blank hr
    exact ⟨hhost, hdev, hchip0, hchip1, hp.unknown hr⟩

/-- In DATA it speaks of the handlers and of their working registers too. -/
theorem State.Inv.of_data {s : State} (hf : s.fstate = .data) (hrow : (s.dh, s.sh) = handlersOf s.cfg s.cmd)
    (hcount : s.ucnt.toNat ≤ 37) (hindex : ∀ r rect, s.dh = .load (.record r) rect → s.ldIdx.toNat ≤ r.length)
    (hcolumn : s.dh = .load .mem true → s.rectSize ≠ 0 → 1 ≤ s.col.toNat ∧ s.col.toNat ≤ s.rectSize.toNat)
    (hp : s.plat.Inv) : s.Inv :=
  { State.Inv.of_nop (s := { s with fstate := .idle, dh := .nop, sh := .nop }) nofun rfl rfl hcount hp with
    outside := fun h => absurd hf h
    inside := fun _ => hrow
    index := hindex
    column := hcolumn }

theorem State.Inv.dispatch {b : Byte} {s u : State} (hs : s.Inv) (hc : classify b = .data)
    (hu : startHandler b { s with cmd := b.setWidth 7 } = .next u) : { u with fstate := .data }.Inv := by
  have hinits := startHandler_inits hc hu
  have hwrites := startHandler_writes hc hu
  obtain ⟨w, hw, heq⟩ := startHandler_eq hc { s with cmd := b.setWidth 7 }
  obtain rfl : u = w := Host.Outcome.next.inj (hu.symm.trans hw)
  refine .of_data rfl ?_ ?_ (fun r rect hdh => ?_) (fun hdh hsize => ?_) ?_
  · rw [heq]
  · by_cases hkept : u.ucnt = s.ucnt
    · exact hkept ▸ hs.count
    · rw [show u.ucnt = 0 from hinits.collect (hwrites.ucnt hkept)]; decide
  · obtain ⟨-, hidx⟩ := hinits.load _ _ hdh
    rw [show u.ldIdx = 0 from hidx]
    exact Nat.zero_le _
  · obtain ⟨-, hcol⟩ := hinits.cursor _ hdh
    have hkept : u.rectSize = s.rectSize := by rw [heq]
    have hcol : u.col = u.rectSize := hcol.trans hkept.symm
    have hpos : u.rectSize.toNat ≠ 0 := fun h0 => hsize (BitVec.eq_of_toNat_eq h0)
    simp only [hcol]
    omega
  · rw [heq]; exact hs.platform

theorem State.Inv.runData {b : Byte} {s t : State} (hs : s.Inv) (hf : s.fstate = .data)
    (h : runData s.dh b s = .next t) : t.Inv := by
  obtain ⟨ht, -, -, -, -, -, -, -, hrect, -⟩ := runData_eq h
  have hdh : t.dh = s.dh := by rw [ht]
  refine .of_data (by rw [ht]; exact hf) (by rw [ht]; exact hs.inside hf) (runData_count h hs.count)
    (fun r rect hload => ?_) (fun hload hsize => ?_) (platInv_runData h hs.platform)
  · rw [hdh] at hload
    have hidx := hs.index r rect hload
    rw [hload] at h
    exact loadByte_record_index h hidx
  · rw [hdh] at hload
    have hcolumn := hs.column hload
    rw [hload] at h
    have hkept : t.rectSize = s.rectSize := by rw [loadByte_mem_eq h]
    rw [hkept] at hsize ⊢
    obtain ⟨h1, hle⟩ := hcolumn hsize
    exact loadByte_mem_column h h1 hle

theorem State.Inv.stepByte {b : Byte} {s t : State} (hs : s.Inv) (h : stepByte b s = .next t) : t.Inv := by
  obtain ⟨-, rfl⟩ | ⟨-, u, hrun, rfl⟩ | ⟨-, rfl⟩ | ⟨-, -, rfl⟩ | ⟨-, hf, rfl⟩ |
    ⟨hc, -, -, u, hstart, rfl⟩ | ⟨-, hf, hrun⟩ := stepByte_cases h
  -- frame start
  · exact .of_nop nofun rfl rfl hs.count hs.platform
  -- frame stop
  · have hcount : u.ucnt = s.ucnt := by obtain ⟨hu, -⟩ := runStop_eq hrun; rw [hu]
    have hp := platInv_runStop hrun hs.platform
    exact .of_nop nofun rfl rfl (hcount ▸ hs.count) hp
  -- a real-time byte
  · exact hs
  -- a data byte in IDLE
  · exact hs
  -- a data byte in AWAIT_MANUF
  · obtain ⟨hdh, hsh⟩ := hs.outside (by rw [hf]; decide)
    exact .of_nop (by dsimp only; split <;> decide) hdh hsh hs.count hs.platform
  -- a data byte in DISPATCH
  · exact hs.dispatch hc hstart
  -- a data byte in DATA
  · exact hs.runData hf hrun

/-- Settles O4: what a step takes from RXQ is outside the invariant, and each case of a byte keeps it. -/
theorem everyStepKeepsTheInvariant : Obligations.EveryStepKeepsTheInvariant := by
  intro s t hs h
  cases hq : s.plat.rxq with
  | nil => rw [step_nil hq] at h; cases h; exact { hs with }
  | cons b rest =>
    rw [step_cons hq] at h
    have htaken : { s with rxpend := false, plat := { s.plat with rxq := rest } }.Inv := { hs with }
    exact htaken.stepByte h

end Sys2Proof.Machine
end

section
/-! SUPPORT. After a frame start the working registers never matter (40_framer_dispatch.md R121; 70_reset_and_hazards.md
R310): two engines that agree on everything else stay in step, since a handler reads only working registers that the
start handler of its own frame has initialised. -/

namespace Sys2Proof.Machine

/-! ### States that agree on everything but the working registers -/

/-- The registers that `sameButWorking` does not compare. -/
structure Working where
  fstate : FState
  cmd : Septet
  dh : DataHandler
  sh : StopHandler
  ubuf : Vector Septet 36
  ucnt : BitVec 6
  urHave : Bool
  urIdx : Septet
  ldPending : BitVec 3
  ldMask : Septet
  ldIdx : BitVec 3
  cur : HostAddr
  col : Byte
  dcur : DevAddr

/-- The working registers of a state replaced. -/
def withWorking (w : Working) (s : State) : State :=
  { s with
    fstate := w.fstate, cmd := w.cmd, dh := w.dh, sh := w.sh
    ubuf := w.ubuf, ucnt := w.ucnt, urHave := w.urHave, urIdx := w.urIdx
    ldPending := w.ldPending, ldMask := w.ldMask, ldIdx := w.ldIdx
    cur := w.cur, col := w.col, dcur := w.dcur }

/-- The working registers of a state. -/
def State.working (s : State) : Working :=
  ⟨s.fstate, s.cmd, s.dh, s.sh, s.ubuf, s.ucnt, s.urHave, s.urIdx, s.ldPending, s.ldMask, s.ldIdx, s.cur, s.col, s.dcur⟩

theorem exists_withWorking {s t : State} (h : sameButWorking s t) : ∃ w, t = withWorking w s := ⟨t.working, h⟩

theorem sameButWorking_iff {s t : State} : sameButWorking s t ↔ ∀ w, withWorking w t = withWorking w s := by
  refine ⟨fun h w => ?_, fun h => h t.working⟩
  rw [h]
  rfl

theorem sameButWorking_symm {s t : State} (h : sameButWorking s t) : sameButWorking t s :=
  sameButWorking_iff.2 fun w => (sameButWorking_iff.1 h w).symm

theorem sameButWorking_trans {s t u : State} (h : sameButWorking s t) (h' : sameButWorking t u) : sameButWorking s u :=
  sameButWorking_iff.2 fun w => (sameButWorking_iff.1 h' w).trans (sameButWorking_iff.1 h w)

/-- What changes working registers alone on both sides keeps the agreement on the rest. -/
theorem sameButWorking_square {s t s' t' : State} (h : sameButWorking s t) (hs : sameButWorking s s')
    (ht : sameButWorking t t') : sameButWorking s' t' :=
  sameButWorking_trans (sameButWorking_symm hs) (sameButWorking_trans h ht)

theorem sameButWorking_cfg {s t : State} (h : sameButWorking s t) : t.cfg = s.cfg := by rw [h]

/-! ### Registers that an operation does not read -/

/-- Where f answers a next state, it does so after g as well, and g commutes with it. -/
def Ignores (g : State → State) (f : State → Result) : Prop := ∀ s t, f s = .next t → f (g s) = .next (g t)

theorem ignores_next {g f : State → State} (h : ∀ s, f (g s) = g (f s)) : Ignores g fun s => .next (f s) := by
  intro s t ht
  cases ht
  exact congrArg Host.Outcome.next (h s)

theorem Ignores.comp {g f : State → State} {r : State → Result} (hr : Ignores g r) (h : ∀ s, f (g s) = g (f s)) :
    Ignores g fun s => r (f s) := by
  intro s t ht
  simp only [h]
  exact hr _ t ht

theorem Ignores.andThen {g : State → State} {f r : State → Result} (hf : Ignores g f) (hr : Ignores g r) :
    Ignores g fun s => andThen (f s) r := by
  intro s t ht
  obtain ⟨u, hu, ht⟩ := andThen_eq_next.1 ht
  exact andThen_eq_next.2 ⟨g u, hf s u hu, hr u t ht⟩

/-- The working registers replaced, but for the cursor's. -/
def besideCursor (w : Working) (s : State) : State := withWorking { w with cur := s.cur, col := s.col } s

/-- The working registers replaced, but for those of the DMA loop. -/
def besideChunk (w : Working) (s : State) : State :=
  withWorking { w with cur := s.cur, col := s.col, dcur := s.dcur } s

theorem advance_ignores (w : Working) (rect : Bool) : Ignores (besideCursor w) (advance rect) := by
  intro s t h
  cases rect with
  | false => cases h; rfl
  | true =>
    obtain ⟨-, hsize⟩ := advance_eq h
    by_cases hcol : s.col - 1 = 0
    · rw [advance_rowEnd (hsize rfl) hcol] at h
      cases h
      exact advance_rowEnd (s := besideCursor w s) (hsize rfl) hcol
    · rw [advance_inside (hsize rfl) hcol] at h
      cases h
      exact advance_inside (s := besideCursor w s) (hsize rfl) hcol

theorem storeMem_ignores (w : Working) (v : Byte) (rect : Bool) : Ignores (besideCursor w) (storeMem v rect) :=
  (advance_ignores w rect).comp fun _ => rfl

theorem fillOnce_ignores (w : Working) (rect : Bool) : Ignores (besideCursor w) (fillOnce rect) :=
  ((advance_ignores w rect).comp (f := fun s => memWrite s.cur s.fillValue s) fun _ => rfl).andThen
    (ignores_next fun _ => rfl)

theorem fillLoop_ignores (w : Working) (rect : Bool) (n : Nat) : Ignores (besideCursor w) (fillLoop rect n) := by
  induction n with
  | zero => exact ignores_next fun _ => rfl
  | succ n ih => exact (fillOnce_ignores w rect).andThen ih

theorem copyOnce_ignores (w : Working) (rect : Bool) : Ignores (besideCursor w) (copyOnce rect) :=
  ((advance_ignores w rect).comp (f := copyMoved) fun _ => rfl).andThen (ignores_next fun _ => rfl)

theorem copyLoop_ignores (w : Working) (rect : Bool) (n : Nat) : Ignores (besideCursor w) (copyLoop rect n) := by
  induction n with
  | zero => exact ignores_next fun _ => rfl
  | succ n ih => exact (copyOnce_ignores w rect).andThen ih

theorem dmaChunk_besideChunk (w : Working) (dir : DmaDir) (mode : DmaMode) (rect : Bool) (s : State) :
    dmaChunk dir mode rect (besideChunk w s) = besideChunk w (dmaChunk dir mode rect s) := by
  cases mode <;> cases rect <;> rfl

theorem dmaLoop_ignores (w : Working) (dir : DmaDir) (mode : DmaMode) (rect : Bool) (n : Nat) :
    Ignores (besideChunk w) (dmaLoop dir mode rect n) := by
  induction n with
  | zero => exact ignores_next fun _ => rfl
  | succ n ih =>
    intro s t h
    have hcount : (besideChunk w s).dmaCount = s.dmaCount := rfl
    have hsize : (besideChunk w s).rectSize = s.rectSize := rfl
    unfold dmaLoop at h ⊢
    rw [hcount, hsize, dmaChunk_besideChunk]
    split_ifs at h ⊢
    · cases h; rfl
    · exact ih _ t h

/-! ### The bitmask payload -/

/-- Two buffers agree on the first n bytes collected. -/
def AgreeBelow (n : Nat) (u v : Vector Septet 36) : Prop := ∀ i (hi : i < 36), i < n → v[i] = u[i]

/-- The masks are the first four bytes of a payload (R101). -/
theorem maskBit_congr {n : Nat} {u v : Vector Septet 36} (h : AgreeBelow n u v) (hn : 8 ≤ n) (id : LogicalId) :
    maskBit v id = maskBit u id := by
  unfold maskBit
  rw [h _ _ (by omega)]

theorem msbBit_congr {n : Nat} {u v : Vector Septet 36} (h : AgreeBelow n u v) (hn : 8 ≤ n) (id : LogicalId) :
    msbBit v id = msbBit u id := by
  unfold msbBit
  rw [h _ _ (by omega)]

theorem selectedCount_congr {n : Nat} {u v : Vector Septet 36} (h : AgreeBelow n u v) (hn : 8 ≤ n) :
    selectedCount v = selectedCount u := by
  unfold selectedCount
  rw [h 0 _ (by omega), h 1 _ (by omega), h 2 _ (by omega), h 3 _ (by omega)]

/-- The logical ids that mask byte g selects (R101). -/
def maskGroup (g : Fin 4) : List LogicalId := (List.range 7).map fun i => Fin.ofNat 28 (7 * g.val + i)

theorem finRange_eq_maskGroups : List.finRange 28 = maskGroup 0 ++ maskGroup 1 ++ maskGroup 2 ++ maskGroup 3 := by
  decide

theorem maskBit_group (u : Vector Septet 36) (g : Fin 4) {i : Nat} (hi : i < 7) :
    maskBit u (Fin.ofNat 28 (7 * g.val + i)) = (u[g.val].setWidth 8).getLsbD i := by
  have hval : (Fin.ofNat 28 (7 * g.val + i)).val = 7 * g.val + i := Nat.mod_eq_of_lt (by omega)
  have hdiv : (Fin.ofNat 28 (7 * g.val + i)).val / 7 = g.val := by omega
  have hmod : (Fin.ofNat 28 (7 * g.val + i)).val % 7 = i := by omega
  have hlt : i < 8 := by omega
  simp only [maskBit, hdiv, hmod, BitVec.getLsbD_setWidth, hlt, decide_true, Bool.true_and]

theorem countP_maskGroup (u : Vector Septet 36) (g : Fin 4) :
    (maskGroup g).countP (maskBit u) = ones (u[g.val].setWidth 8) := by
  rw [maskGroup, List.countP_map, ones, ← List.countP_eq_length_filter]
  refine List.countP_congr fun i hi => ?_
  rw [Function.comp_apply, maskBit_group u g (List.mem_range.1 hi)]

/-- The popcounts of the masks count the selected ids (R101). -/
theorem countP_maskBit (u : Vector Septet 36) : (List.finRange 28).countP (maskBit u) = selectedCount u := by
  rw [finRange_eq_maskGroups]
  simp only [List.countP_append, countP_maskGroup]
  rfl

/-- Each selected id takes one value, so no more values are read than ids are selected (R102). -/
theorem assignValues_take (u : Vector Septet 36) (ids : List LogicalId) (vs : List Septet) :
    assignValues u ids (vs.take (ids.countP (maskBit u))) = assignValues u ids vs := by
  induction ids generalizing vs with
  | nil => rfl
  | cons id ids ih =>
    unfold assignValues
    by_cases hm : maskBit u id = true
    · cases vs with
      | nil => simp
      | cons v vs => simp [hm, ih]
    · simp [hm, ih]

theorem assignValues_congr {u v : Vector Septet 36} (hmask : ∀ id, maskBit v id = maskBit u id)
    (hmsb : ∀ id, msbBit v id = msbBit u id) (ids : List LogicalId) (vs : List Septet) :
    assignValues v ids vs = assignValues u ids vs := by
  induction ids generalizing vs with
  | nil => rfl
  | cons id ids ih =>
    unfold assignValues
    rw [hmask, hmsb]
    split
    · split
      · rfl
      · rw [ih]
    · rw [ih]

theorem take_drop_congr {n k : Nat} {u v : Vector Septet 36} (h : AgreeBelow n u v) (hk : 8 + k ≤ n) :
    (v.toList.drop 8).take k = (u.toList.drop 8).take k := by
  refine List.ext_getElem (by simp) fun i hi _ => ?_
  simp at hi
  simpa using h (8 + i) (by omega) (by omega)

/-- The operands of a payload of the right length lie in the bytes collected (R102, R154). -/
theorem bitmaskPairs_congr {n : Nat} {u v : Vector Septet 36} (h : AgreeBelow n u v) (hn : n = 8 + selectedCount u) :
    bitmaskPairs v = bitmaskPairs u := by
  have hmask := maskBit_congr h (by omega)
  unfold bitmaskPairs
  rw [assignValues_congr hmask (msbBit_congr h (by omega)), ← assignValues_take, countP_maskBit,
    take_drop_congr h hn.ge, ← countP_maskBit, assignValues_take]

/-! ### The stop handlers -/

theorem flush_withWorking (w : Working) (bank chip : Chip) (s : State) :
    flush bank chip (withWorking w s) = withWorking w (flush bank chip s) :=
  List.foldl_hom (withWorking w) fun _ _ => rfl

theorem updFlush_withWorking (w : Working) (sel : UpdSel) (s : State) :
    updFlush sel (withWorking w s) = withWorking w (updFlush sel s) := by
  cases sel <;> simp only [updFlush, flush_withWorking]

theorem applyPairs_withWorking (w : Working) (bank : Chip) (ps : List (LogicalId × Byte)) (s : State) :
    applyPairs bank ps (withWorking w s) = withWorking w (applyPairs bank ps s) :=
  List.foldl_hom (withWorking w) fun _ _ => rfl

/-- A commit reads no more of UBUF than was collected. -/
theorem updCommit_withWorking {w : Working} {s : State} (hcount : w.ucnt = s.ucnt)
    (hbuf : AgreeBelow s.ucnt.toNat s.ubuf w.ubuf) (sel : UpdSel) :
    updCommit sel (withWorking w s) = withWorking w (updCommit sel s) := by
  have hlength : updLengthOk (withWorking w s) = updLengthOk s := by
    unfold updLengthOk
    by_cases h8 : 8 ≤ s.ucnt.toNat
    · rw [show (withWorking w s).ucnt = s.ucnt from hcount,
        show selectedCount (withWorking w s).ubuf = selectedCount s.ubuf from selectedCount_congr hbuf h8]
    · rw [show (withWorking w s).ucnt = s.ucnt from hcount]
      simp [h8]
  unfold updCommit
  rw [hlength]
  split
  · next hok =>
    have hn : s.ucnt.toNat = 8 + selectedCount s.ubuf := by
      simp only [updLengthOk, Bool.and_eq_true, beq_iff_eq] at hok
      exact hok.2
    unfold decodeUpdate
    rw [show bitmaskPairs (withWorking w s).ubuf = bitmaskPairs s.ubuf from bitmaskPairs_congr hbuf hn,
      applyPairs_withWorking, updFlush_withWorking]
  · rfl

theorem runBuffer_withWorking (w : Working) (s : State) :
    runBuffer (withWorking w s) = withWorking w (runBuffer s) := by
  unfold runBuffer
  rw [show (withWorking w s).cfg = s.cfg from rfl]
  split <;> rfl

/-- A stop handler reads no working register, but for the payload a commit has collected. -/
theorem runStop_sameButWorking {sh : StopHandler} {s s' t : State} (hsame : sameButWorking s t)
    (hcollected : ∀ sel, sh = .updCommit sel → t.ucnt = s.ucnt ∧ AgreeBelow s.ucnt.toNat s.ubuf t.ubuf)
    (h : runStop sh s = .next s') : ∃ t', runStop sh t = .next t' ∧ sameButWorking s' t' := by
  obtain ⟨w, rfl⟩ := exists_withWorking hsame
  cases sh with
  | nop => cases h; exact ⟨_, rfl, rfl⟩
  | play x => cases h; exact ⟨_, rfl, rfl⟩
  | updCommit sel =>
    obtain ⟨hcount, hbuf⟩ := hcollected sel rfl
    cases h
    exact ⟨_, congrArg Host.Outcome.next (updCommit_withWorking hcount hbuf sel), rfl⟩
  | flush bank => cases h; exact ⟨_, congrArg Host.Outcome.next (flush_withWorking w bank bank s), rfl⟩
  | fill rect => exact ⟨_, fillLoop_ignores w rect _ (cursorInit s) s' h, rfl⟩
  | copy rect => exact ⟨_, copyLoop_ignores w rect _ (cursorInit s) s' h, rfl⟩
  | dma dir mode rect =>
    exact ⟨_, dmaLoop_ignores w dir mode rect _ { cursorInit s with dcur := s.dmaDevAddr } s' h, rfl⟩
  | run => cases h; exact ⟨_, congrArg Host.Outcome.next (runBuffer_withWorking w s), rfl⟩

/-! ### The data handlers -/

/-- The working registers that a data handler will read are the same in both states: UBUF below UCNT, UR_IDX while it
waits for its value, LD_MASK while bytes are owed to it, the cursor of a load to host memory. -/
def LiveAgree (dh : DataHandler) (s t : State) : Prop :=
  match dh with
  | .nop => True
  | .updMask => t.ucnt = s.ucnt ∧ AgreeBelow s.ucnt.toNat s.ubuf t.ubuf
  | .updReg _ => t.urHave = s.urHave ∧ (s.urHave = true → t.urIdx = s.urIdx)
  | .load target _ =>
    t.ldPending = s.ldPending ∧ (s.ldPending ≠ 0 → t.ldMask = s.ldMask) ∧ t.ldIdx = s.ldIdx ∧
    (target = .mem → t.cur = s.cur ∧ t.col = s.col)

/-- What a start handler initialises is all that its data handler will read. -/
theorem StartInits.liveAgree {s t u v : State} (hu : StartInits s u) (hv : StartInits t v) (hdh : v.dh = u.dh)
    (hsame : sameButWorking s t) : LiveAgree u.dh u v := by
  cases h : u.dh <;> rw [h] at hdh
  case nop => trivial
  case updMask =>
    rw [LiveAgree, hu.collect h, hv.collect hdh]
    exact ⟨rfl, fun i _ hi => absurd hi (Nat.not_lt_zero i)⟩
  case updReg bank =>
    rw [LiveAgree, hu.pair bank h, hv.pair bank hdh]
    exact ⟨rfl, nofun⟩
  case load target rect =>
    obtain ⟨hp, hi⟩ := hu.load _ _ h
    obtain ⟨hp', hi'⟩ := hv.load _ _ hdh
    refine ⟨hp'.trans hp.symm, fun hne => absurd hp hne, hi'.trans hi.symm, fun hmem => ?_⟩
    subst hmem
    obtain ⟨hc, hl⟩ := hu.cursor _ h
    obtain ⟨hc', hl'⟩ := hv.cursor _ hdh
    have hbuf : t.bufAddr = s.bufAddr := by rw [hsame]
    have hsize : t.rectSize = s.rectSize := by rw [hsame]
    exact ⟨by rw [hc', hc, hbuf], by rw [hl', hl, hsize]⟩

theorem updCollect_agree {s t : State} (hcount : t.ucnt = s.ucnt) (hbuf : AgreeBelow s.ucnt.toNat s.ubuf t.ubuf)
    (b : Byte) : LiveAgree .updMask (updCollect b s) (updCollect b t) := by
  unfold updCollect
  simp only [hcount]
  split
  · refine ⟨rfl, fun i hi hlt => ?_⟩
    simp only [Vector.getElem_set]
    split
    · rfl
    · exact hbuf i hi (by bv_omega)
  · exact ⟨rfl, fun i hi _ => hbuf i hi (by omega)⟩

theorem applyPair_withWorking (w : Working) (bank : Chip) (x : Septet) (y : Byte) (s : State) :
    applyPair bank x y (withWorking w s) = withWorking w (applyPair bank x y s) := by
  unfold applyPair; split <;> rfl

theorem setRecordByte_withWorking (w : Working) (r : Record) (i : Nat) (v : Byte) (s : State) :
    setRecordByte r i v (withWorking w s) = withWorking w (setRecordByte r i v s) := by
  cases r <;> simp only [setRecordByte]
  · unfold setAddrByte; split <;> rfl
  · unfold setRectByte; split <;> rfl
  · unfold setFillByte; split <;> rfl
  · unfold setCopyByte; split <;> rfl

theorem storeRec_withWorking {w : Working} {s : State} (hidx : w.ldIdx = s.ldIdx) (r : Record) (v : Byte) :
    storeRec r v (withWorking w s) = withWorking { w with ldIdx := (storeRec r v s).ldIdx } (storeRec r v s) := by
  unfold storeRec
  rw [show (withWorking w s).ldIdx = s.ldIdx from hidx, setRecordByte_withWorking]
  split
  · rfl
  · rw [← hidx]

theorem withWorking_eq_besideCursor {w : Working} {s : State} (hcur : w.cur = s.cur) (hcol : w.col = s.col) :
    withWorking w s = besideCursor w s := by
  unfold besideCursor
  rw [← hcur, ← hcol]

theorem storeDecoded_liveAgree {target : Target} {rect : Bool} {v : Byte} {s s' t : State} (hsame : sameButWorking s t)
    (hlive : LiveAgree (.load target rect) s t) (h : storeDecoded target rect v s = .next s') :
    ∃ t', storeDecoded target rect v t = .next t' ∧ sameButWorking s' t' ∧ LiveAgree (.load target rect) s' t' := by
  obtain ⟨w, rfl⟩ := exists_withWorking hsame
  obtain ⟨hpend, hmask, hidx, hcursor⟩ := hlive
  cases target with
  | mem =>
    obtain ⟨hcur, hcol⟩ := hcursor rfl
    have hs' := storeMem_eq h
    have hpend' : s'.ldPending = s.ldPending := by rw [hs']
    have hmask' : s'.ldMask = s.ldMask := by rw [hs']
    have hidx' : s'.ldIdx = s.ldIdx := by rw [hs']
    rw [withWorking_eq_besideCursor hcur hcol]
    refine ⟨_, storeMem_ignores w v rect s s' h, rfl, ?_⟩
    rw [LiveAgree, hpend', hmask', hidx']
    exact ⟨hpend, hmask, hidx, fun _ => ⟨rfl, rfl⟩⟩
  | record r =>
    have hpend' : (storeRec r v s).ldPending = s.ldPending := by rw [storeRec_eq]
    have hmask' : (storeRec r v s).ldMask = s.ldMask := by rw [storeRec_eq]
    cases h
    refine ⟨_, congrArg Host.Outcome.next (storeRec_withWorking hidx r v), rfl, ?_⟩
    rw [LiveAgree, hpend', hmask']
    exact ⟨hpend, hmask, rfl, nofun⟩

/-- A data handler reads no other working registers, and leaves those it will read the same. -/
theorem runData_liveAgree {dh : DataHandler} {b : Byte} {s s' t : State} (hsame : sameButWorking s t)
    (hlive : LiveAgree dh s t) (h : runData dh b s = .next s') :
    ∃ t', runData dh b t = .next t' ∧ sameButWorking s' t' ∧ LiveAgree dh s' t' := by
  cases dh with
  | nop => cases h; exact ⟨t, rfl, hsame, trivial⟩
  | updMask =>
    obtain ⟨hcount, hbuf⟩ := hlive
    cases h
    have hkept : ∀ u, sameButWorking u (updCollect b u) := fun u => by rw [updCollect_eq]; rfl
    exact ⟨_, rfl, sameButWorking_square hsame (hkept s) (hkept t), updCollect_agree hcount hbuf b⟩
  | updReg bank =>
    obtain ⟨w, rfl⟩ := exists_withWorking hsame
    obtain ⟨hhave, hidx⟩ := hlive
    cases h
    refine ⟨_, rfl, ?_⟩
    unfold regByte
    rw [hhave]
    split
    · next hwaits =>
      rw [hidx hwaits, applyPair_withWorking]
      exact ⟨rfl, rfl, nofun⟩
    · exact ⟨rfl, rfl, fun _ => rfl⟩
  | load target rect =>
    obtain ⟨w, rfl⟩ := exists_withWorking hsame
    obtain ⟨hpend, hmask, hidx, hcursor⟩ := hlive
    rw [runData, loadByte] at h ⊢
    rw [hpend]
    split at h
    · next hzero =>
      rw [if_pos hzero]
      cases h
      exact ⟨_, rfl, rfl, rfl, fun _ => rfl, hidx, hcursor⟩
    · next hne =>
      rw [if_neg hne, hmask hne]
      refine storeDecoded_liveAgree ?_ ?_ h
      · rfl
      · exact ⟨rfl, fun _ => rfl, hidx, hcursor⟩

/-! ### Two engines in step -/

/-- Two engines agree on everything but the working registers, have the same handlers installed, and agree on what
these will read. -/
structure InStep (s t : State) : Prop where
  same : sameButWorking s t
  fstate : t.fstate = s.fstate
  dh : t.dh = s.dh
  sh : t.sh = s.sh
  commit : ∀ sel, s.sh = .updCommit sel → s.dh = .updMask
  live : LiveAgree s.dh s t

theorem InStep.of_nop {s t : State} (hsame : sameButWorking s t) (hf : t.fstate = s.fstate)
    (hs : s.dh = .nop ∧ s.sh = .nop) (ht : t.dh = .nop ∧ t.sh = .nop) : InStep s t := by
  obtain ⟨hdh, hsh⟩ := hs
  obtain ⟨hdh', hsh'⟩ := ht
  refine ⟨hsame, hf, hdh'.trans hdh.symm, hsh'.trans hsh.symm, fun sel h => ?_, ?_⟩
  · rw [hsh] at h; cases h
  · rw [hdh]; trivial

theorem InStep.withFstate {s t : State} (h : InStep s t) (f : FState) :
    InStep { s with fstate := f } { t with fstate := f } := by
  obtain ⟨hsame, -, hdh, hsh, hcommit, hlive⟩ := h
  refine ⟨?_, rfl, hdh, hsh, hcommit, ?_⟩
  · exact sameButWorking_square hsame rfl rfl
  · cases hd : s.dh <;> rw [hd] at hlive <;> exact hlive

/-- Frame start puts any two engines in step that agree on everything but the working registers (R121). -/
theorem frameStart_inStep {s t : State} (h : sameButWorking s t) : InStep (frameStart s) (frameStart t) :=
  .of_nop (sameButWorking_square h rfl rfl) rfl ⟨rfl, rfl⟩ ⟨rfl, rfl⟩

theorem InStep.frameStop {s s' t : State} (h : InStep s t) (hs : frameStop s = .next s') :
    ∃ t', frameStop t = .next t' ∧ InStep s' t' := by
  obtain ⟨u, hu, hs'⟩ := andThen_eq_next.1 hs
  cases hs'
  obtain ⟨v, hv, hsame⟩ := runStop_sameButWorking h.same (fun sel hsel => by
    have hlive := h.live
    rwa [h.commit sel hsel] at hlive) hu
  refine ⟨endFrame v, ?_, .of_nop (sameButWorking_square hsame rfl rfl) rfl ⟨rfl, rfl⟩ ⟨rfl, rfl⟩⟩
  rw [Machine.frameStop, h.sh, hv, andThen_next]

/-- So does a start handler, which initialises what its data handler will read (R128). -/
theorem startHandler_inStep {b : Byte} {s t u : State} (hc : classify b = .data) (h : sameButWorking s t)
    (hf : t.fstate = s.fstate) (hu : startHandler b s = .next u) : ∃ v, startHandler b t = .next v ∧ InStep u v := by
  obtain ⟨u', hu', hueq⟩ := startHandler_eq hc s
  obtain rfl : u = u' := Host.Outcome.next.inj (hu.symm.trans hu')
  obtain ⟨v, hv, hveq⟩ := startHandler_eq hc t
  have hinits := startHandler_inits hc hu
  have hdh : v.dh = u.dh := by rw [hveq, hueq, sameButWorking_cfg h]
  have hsh : v.sh = u.sh := by rw [hveq, hueq, sameButWorking_cfg h]
  have hus : sameButWorking s u := by rw [hueq]; rfl
  have hvt : sameButWorking t v := by rw [hveq]; rfl
  exact ⟨v, hv, sameButWorking_square h hus hvt, by rw [hveq, hueq, hf], hdh, hsh, hinits.commit,
    hinits.liveAgree (startHandler_inits hc hv) hdh h⟩

theorem InStep.dispatchByte {b : Byte} {s s' t : State} (hc : classify b = .data) (h : InStep s t)
    (hs : dispatchByte b s = .next s') : ∃ t', dispatchByte b t = .next t' ∧ InStep s' t' := by
  obtain ⟨u, hu, hs'⟩ := andThen_eq_next.1 hs
  cases hs'
  have hcmd : sameButWorking { s with cmd := b.setWidth 7 } { t with cmd := b.setWidth 7 } :=
    sameButWorking_square h.same rfl rfl
  obtain ⟨v, hv, huv⟩ := startHandler_inStep hc hcmd h.fstate hu
  exact ⟨_, andThen_eq_next.2 ⟨v, hv, rfl⟩, huv.withFstate .data⟩

theorem InStep.runData {b : Byte} {s s' t : State} (h : InStep s t) (hs : runData s.dh b s = .next s') :
    ∃ t', runData t.dh b t = .next t' ∧ InStep s' t' := by
  obtain ⟨t', ht, hsame, hlive⟩ := runData_liveAgree h.same h.live hs
  obtain ⟨hseq, -⟩ := runData_eq hs
  obtain ⟨hteq, -⟩ := runData_eq ht
  have hsd : s'.dh = s.dh := by rw [hseq]
  have hss : s'.sh = s.sh := by rw [hseq]
  have hsf : s'.fstate = s.fstate := by rw [hseq]
  have htd : t'.dh = t.dh := by rw [hteq]
  have hts : t'.sh = t.sh := by rw [hteq]
  have htf : t'.fstate = t.fstate := by rw [hteq]
  refine ⟨t', by rw [h.dh]; exact ht, hsame, ?_, ?_, ?_, ?_, ?_⟩
  · rw [htf, hsf, h.fstate]
  · rw [htd, hsd, h.dh]
  · rw [hts, hss, h.sh]
  · rw [hss, hsd]; exact h.commit
  · rw [hsd]; exact hlive

theorem InStep.dataByte {b : Byte} {s s' t : State} (hc : classify b = .data) (h : InStep s t)
    (hs : dataByte b s = .next s') : ∃ t', dataByte b t = .next t' ∧ InStep s' t' := by
  cases hf : s.fstate with
  | idle =>
    rw [dataByte_idle hf] at hs
    cases hs
    exact ⟨t, dataByte_idle (h.fstate.trans hf), h⟩
  | awaitManuf =>
    rw [dataByte_awaitManuf hf] at hs
    cases hs
    have hmanuf : t.cfg.manufId = s.cfg.manufId := congrArg Config.manufId (sameButWorking_cfg h.same)
    refine ⟨_, dataByte_awaitManuf (h.fstate.trans hf), ?_⟩
    rw [hmanuf]
    exact h.withFstate _
  | dispatch =>
    rw [dataByte_dispatch hf] at hs
    rw [dataByte_dispatch (h.fstate.trans hf)]
    exact h.dispatchByte hc hs
  | data =>
    rw [dataByte_inData hf] at hs
    rw [dataByte_inData (h.fstate.trans hf)]
    exact h.runData hs

theorem InStep.stepByte {b : Byte} {s s' t : State} (h : InStep s t) (hs : stepByte b s = .next s') :
    ∃ t', stepByte b t = .next t' ∧ InStep s' t' := by
  cases hc : classify b with
  | frameStart =>
    obtain rfl := classify_frameStart.1 hc
    cases hs
    exact ⟨_, rfl, frameStart_inStep h.same⟩
  | frameStop =>
    obtain rfl := classify_frameStop.1 hc
    exact h.frameStop hs
  | realTime =>
    rw [stepByte_realTime hc] at hs
    cases hs
    exact ⟨t, stepByte_realTime hc t, h⟩
  | data =>
    rw [stepByte_data hc] at hs ⊢
    exact h.dataByte hc hs

theorem InStep.feed {bs : List Byte} {s s' t : State} (h : InStep s t) (hs : feed bs s = .next s') :
    ∃ t', feed bs t = .next t' ∧ InStep s' t' := by
  induction bs generalizing s t with
  | nil => cases hs; exact ⟨t, rfl, h⟩
  | cons b bs ih =>
    obtain ⟨u, hu, hs⟩ := andThen_eq_next.1 hs
    obtain ⟨v, hv, huv⟩ := h.stepByte hu
    obtain ⟨t', ht', hst⟩ := ih huv hs
    exact ⟨t', andThen_eq_next.2 ⟨v, hv, ht'⟩, hst⟩

/-- Settles O10: frame start puts the two engines in step, and every byte keeps them so. -/
theorem frameStartMakesInterruptionsIrrelevant : Obligations.FrameStartMakesInterruptionsIrrelevant := by
  intro s s' bs hsame t ht
  obtain ⟨t', ht', hst⟩ := (frameStart_inStep hsame).feed (bs := bs) ht
  exact ⟨t', ht', hst.same, hst.fstate, hst.dh, hst.sh⟩

end Sys2Proof.Machine
end

section
/-! SUPPORT. The bitmask updates (41_shadow_update.md R150 to R158, R164): what a payload byte keeps, which payloads are
dropped, what the decode writes to a shadow bank, and what the flushes send. -/

namespace Sys2Proof.Machine

/-! ### The parts of a bitmask frame -/

theorem startRow_updateKind (sel : UpdSel) : startRow (updateKind sel) = (.updMask, .updCommit sel) := by
  cases sel <;> rfl

theorem exec_update_data (sel : UpdSel) (b : Byte) (s : State) :
    exec ((updateKind sel).instr (.data b)) s = .next (updCollect b s) := by
  rw [exec_data, startRow_updateKind]
  rfl

theorem exec_update_stop (sel : UpdSel) (s : State) :
    exec ((updateKind sel).instr .stop) s = .next (updCommit sel s) := by
  rw [exec_stop, startRow_updateKind]
  rfl

/-! ### Collecting the payload -/

/-- A byte within the buffer is kept and counted (R153). -/
theorem updCollect_below {s : State} (h : s.ucnt.toNat < 36) (b : Byte) :
    updCollect b s = { s with ubuf := s.ubuf.set s.ucnt.toNat (b.setWidth 7) h, ucnt := s.ucnt + 1 } := dif_pos h

/-- A byte beyond the buffer is only noted (R153). -/
theorem updCollect_beyond {s : State} (h : 36 ≤ s.ucnt.toNat) (b : Byte) : updCollect b s = { s with ucnt := 37 } :=
  dif_neg (Nat.not_lt.2 h)

/-- Settles O26: UPD_MASK below the buffer's end, and at or beyond it. -/
theorem updatePayloadIsCollected : Obligations.UpdatePayloadIsCollected := by
  intro sel b s
  rw [exec_update_data]
  refine ⟨fun h => ⟨_, rfl, ?_, fun i => ?_⟩, fun h => by rw [updCollect_beyond h]⟩
  · rw [updCollect_below h]
  · simp [updCollect_below h, Vector.getElem_set, eq_comm]

/-! ### The length of the payload -/

theorem updLengthOk_iff {s : State} : updLengthOk s = true ↔ ¬ malformedUpdate s := by
  have hcount : (List.finRange 28).countP (fun id => maskBit s.ubuf id) = selectedCount s.ubuf := countP_maskBit _
  unfold updLengthOk malformedUpdate
  rw [hcount]
  simp only [Bool.and_eq_true, decide_eq_true_eq, beq_iff_eq]
  omega

/-- A payload of the wrong length is dropped whole (R154). -/
theorem updCommit_malformed {s : State} (h : malformedUpdate s) (sel : UpdSel) : updCommit sel s = s :=
  if_neg fun hok => updLengthOk_iff.1 hok h

/-- A payload of the right length is decoded and flushed (R154). -/
theorem updCommit_wellFormed {s : State} (h : ¬ malformedUpdate s) (sel : UpdSel) :
    updCommit sel s = updFlush sel (decodeUpdate sel.bank s) := if_pos (updLengthOk_iff.2 h)

/-! ### When E_LEN is raised -/

theorem eq_of_mem_rectCond {c : Cond} {rect : Bool} {n : BitVec 16} {s : State} (h : c ∈ rectCond rect n s) :
    c = .eRectSize0 := by
  unfold rectCond at h
  split at h <;> simp_all

theorem eq_of_mem_dmaCond {c : Cond} {s : State} (h : c ∈ dmaCond s) : c = .eDmaSize0 ∨ c = .eDmaMisalign := by
  unfold dmaCond at h
  split_ifs at h <;> simp_all

theorem eq_of_mem_dataConds {c : Cond} {s : State} (h : c ∈ dataConds s) :
    c = .eRegRange ∨ c = .eRecOverrun ∨ c = .eRectSize0 := by
  unfold dataConds at h
  split at h
  · split at h <;> simp_all
  · split at h <;> simp_all
  · split at h <;> simp_all
  · cases h
  · cases h

theorem eLen_mem_stopConds {s : State} :
    Cond.eLen ∈ stopConds s ↔ (∃ sel, s.sh = .updCommit sel) ∧ malformedUpdate s := by
  unfold stopConds
  cases s.sh with
  | updCommit sel =>
    by_cases hok : updLengthOk s = true
    · simp [hok, updLengthOk_iff.1 hok]
    · simp [hok, not_not.1 (mt updLengthOk_iff.2 hok)]
  | flush bank => by_cases hd : dangling s = true <;> simp [hd]
  | fill rect => simpa using fun h => nomatch eq_of_mem_rectCond h
  | copy rect => simpa using fun h => nomatch eq_of_mem_rectCond h
  | dma dir mode rect => simpa using fun h => nomatch eq_of_mem_dmaCond h
  | nop => simp
  | play x => simp
  | run => simp

theorem eLen_mem_conditions {b : Byte} {s : State} :
    Cond.eLen ∈ conditions b s ↔ classify b = .frameStop ∧ s.fstate = .data ∧ Cond.eLen ∈ stopConds s := by
  unfold conditions
  cases classify b with
  | frameStart => by_cases hf : s.fstate = .data <;> by_cases hd : dangling s = true <;> simp [hf, hd]
  | frameStop => cases s.fstate <;> simp
  | realTime => simp
  | data =>
    cases s.fstate with
    | idle => simp
    | awaitManuf => dsimp only; split <;> simp
    | dispatch => dsimp only; split <;> simp
    | data => simpa using fun h => nomatch eq_of_mem_dataConds h

/-- Settles O27: the stop handler returns at once, and only it looks at the length. -/
theorem malformedUpdateIsDropped : Obligations.MalformedUpdateIsDropped := by
  refine ⟨fun sel s h => ?_, fun b s => ?_⟩
  · rw [exec_update_stop, updCommit_malformed h]
  · rw [eLen_mem_conditions, eLen_mem_stopConds, classify_frameStop]

/-! ### The operands of the payload -/

@[simp] theorem assignValues_nil_right (u : Vector Septet 36) (ids : List LogicalId) : assignValues u ids [] = [] := by
  induction ids with
  | nil => rfl
  | cons id ids ih => simp [assignValues, ih]

/-- The ids that follow take the values that follow (R102). -/
theorem assignValues_append (u : Vector Septet 36) (ids ids' : List LogicalId) (vs : List Septet) :
    assignValues u (ids ++ ids') vs =
      assignValues u ids vs ++ assignValues u ids' (vs.drop (ids.countP (maskBit u))) := by
  induction ids generalizing vs with
  | nil => simp [assignValues]
  | cons id ids ih =>
    by_cases hm : maskBit u id = true
    · cases vs with
      | nil => simp
      | cons v vs => simp [assignValues, hm, ih]
    · simp [assignValues, hm, ih]

theorem maskBit_of_mem_assignValues {u : Vector Septet 36} {ids : List LogicalId} {vs : List Septet}
    {p : LogicalId × Byte} (h : p ∈ assignValues u ids vs) : p.1 ∈ ids ∧ maskBit u p.1 = true := by
  induction ids generalizing vs with
  | nil => cases h
  | cons id ids ih =>
    by_cases hm : maskBit u id = true
    · cases vs with
      | nil => simp at h
      | cons v vs =>
        simp only [assignValues, hm, if_true, List.mem_cons] at h
        rcases h with rfl | h
        · exact ⟨List.mem_cons_self, hm⟩
        · exact (ih h).imp_left (List.mem_cons_of_mem _)
    · simp only [assignValues, hm] at h
      exact (ih h).imp_left (List.mem_cons_of_mem _)

/-- The ids below an id and the ids above it. -/
theorem finRange_split (id : LogicalId) : ∃ lower higher,
    List.finRange 28 = lower ++ id :: higher ∧ (∀ j ∈ lower, j < id) ∧ ∀ j ∈ higher, id < j := by
  obtain ⟨lower, higher, hsplit⟩ := List.append_of_mem (List.mem_finRange id)
  have hsorted := List.pairwise_lt_finRange 28
  rw [hsplit, List.pairwise_append, List.pairwise_cons] at hsorted
  obtain ⟨-, ⟨hhigher, -⟩, hlower⟩ := hsorted
  exact ⟨lower, higher, hsplit, fun j hj => hlower j hj id List.mem_cons_self, hhigher⟩

theorem rank_eq_countP {u : Vector Septet 36} {id : LogicalId} {lower higher : List LogicalId}
    (hsplit : List.finRange 28 = lower ++ id :: higher) (hlower : ∀ j ∈ lower, j < id)
    (hhigher : ∀ j ∈ higher, id < j) : rank u id = lower.countP (maskBit u) := by
  have hbelow : lower.countP (fun j => decide (j < id) && maskBit u j) = lower.countP (maskBit u) :=
    List.countP_congr fun j hj => by simp [hlower j hj]
  have habove : higher.countP (fun j => decide (j < id) && maskBit u j) = 0 :=
    List.countP_eq_zero.2 fun j hj => by simp [(hhigher j hj).le]
  rw [rank, hsplit, List.countP_append, List.countP_cons, hbelow, habove]
  simp

/-- A selected id stands among the operands with the value byte of its rank, and after it only higher selected ids
(R102). -/
theorem bitmaskPairs_split {u : Vector Septet 36} {id : LogicalId} (hm : maskBit u id = true) :
    ∃ x before after, u.toList[8 + rank u id]? = some x ∧
      bitmaskPairs u = before ++ (id, withHigh (x.setWidth 8) (msbBit u id)) :: after ∧
      ∀ p ∈ after, id < p.1 ∧ maskBit u p.1 = true := by
  obtain ⟨lower, higher, hsplit, hlower, hhigher⟩ := finRange_split id
  have hrank : rank u id = lower.countP (maskBit u) := rank_eq_countP hsplit hlower hhigher
  have hlength := congrArg List.length hsplit
  simp only [List.length_finRange, List.length_append, List.length_cons] at hlength
  have hle : lower.countP (maskBit u) ≤ lower.length := List.countP_le_length
  have hvalue : rank u id < (u.toList.drop 8).length := by simp; omega
  refine ⟨(u.toList.drop 8)[rank u id], assignValues u lower (u.toList.drop 8),
    assignValues u higher ((u.toList.drop 8).drop (rank u id + 1)), ?_, ?_, fun p hp => ?_⟩
  · rw [← List.getElem?_drop, List.getElem?_eq_getElem hvalue]
  · rw [bitmaskPairs, hsplit, assignValues_append, ← hrank, List.drop_eq_getElem_cons hvalue]
    simp [assignValues, hm]
  · exact (maskBit_of_mem_assignValues hp).imp_left (hhigher p.1)

/-! ### What the decode writes -/

/-- The byte that the last of a list of operands for an offset carries, if one is for it (R155, R156). -/
def writtenAt (c : Config) (ps : List (LogicalId × Byte)) (o : Offset) : Option Byte :=
  ps.reverse.findSome? fun p => if c.regmap[p.1] = o then some p.2 else none

theorem writtenAt_append (c : Config) (ps qs : List (LogicalId × Byte)) (o : Offset) :
    writtenAt c (ps ++ qs) o = (writtenAt c qs o).or (writtenAt c ps o) := by
  simp [writtenAt, List.findSome?_append]

theorem writtenAt_cons (c : Config) (p : LogicalId × Byte) (ps : List (LogicalId × Byte)) (o : Offset) :
    writtenAt c (p :: ps) o = (writtenAt c ps o).or (if c.regmap[p.1] = o then some p.2 else none) := by
  simp [writtenAt, List.findSome?_append]

theorem writtenAt_eq_none {c : Config} {ps : List (LogicalId × Byte)} {o : Offset} :
    writtenAt c ps o = none ↔ ∀ p ∈ ps, c.regmap[p.1] ≠ o := by
  simp [writtenAt, List.findSome?_eq_none_iff]

/-- The decoded operands give each offset of the bank its last byte and leave everything else (R155, R156). -/
theorem shadowAt_applyPairs (bank c : Chip) (ps : List (LogicalId × Byte)) (o : Offset) (s : State) :
    shadowAt (applyPairs bank ps s) c o =
      if c = bank then (writtenAt s.cfg ps o).getD (shadowAt s c o) else shadowAt s c o := by
  induction ps generalizing s with
  | nil => simp [applyPairs, writtenAt]
  | cons p ps ih =>
    have hstep : applyPairs bank (p :: ps) s = applyPairs bank ps (setShadow bank s.cfg.regmap[p.1] p.2 s) := rfl
    rw [hstep, ih, shadowAt_setShadow, setShadow_cfg, writtenAt_cons]
    by_cases hc : c = bank
    · subst hc
      rw [if_pos rfl, if_pos rfl]
      by_cases ho : s.cfg.regmap[p.1] = o
      · rw [if_pos ⟨rfl, ho.symm⟩, if_pos ho]
        cases writtenAt s.cfg ps o <;> rfl
      · rw [if_neg fun h => ho h.2.symm, if_neg ho, Option.or_none]
    · simp [hc]

/-! ### The flushes of an update -/

/-- Flushes a bank to each of a list of chips in order (R154). -/
def flushEach (bank : Chip) (chips : List Chip) (s : State) : State := chips.foldl (fun t chip => flush bank chip t) s

@[simp] theorem flushEach_nil (bank : Chip) (s : State) : flushEach bank [] s = s := rfl

@[simp] theorem flushEach_cons (bank chip : Chip) (chips : List Chip) (s : State) :
    flushEach bank (chip :: chips) s = flushEach bank chips (flush bank chip s) := List.foldl_cons ..

theorem updFlush_eq_flushEach (sel : UpdSel) (s : State) :
    updFlush sel s = flushEach sel.bank (updateChips sel) s := by
  cases sel <;> simp [updFlush, updateChips, UpdSel.bank]

theorem flushEvents_congr {s t : State} (h : t.shadow = s.shadow) (bank chip : Chip) :
    flushEvents bank chip t = flushEvents bank chip s := by
  unfold flushEvents shadowAt
  rw [h]

theorem flushEach_events (bank : Chip) (chips : List Chip) (s : State) :
    (flushEach bank chips s).plat.events =
      s.plat.events ++ chips.flatMap fun chip => flushEvents bank chip s := by
  induction chips generalizing s with
  | nil => simp
  | cons chip chips ih =>
    have hevents : (flush bank chip s).plat.events = s.plat.events ++ flushEvents bank chip s := by rw [flush_eq]
    rw [flushEach_cons, ih, hevents]
    simp [flushEvents_congr (flush_shadow bank chip s)]

theorem flush_keepsChip (bank chip c : Chip) (s : State) :
    (flush bank chip s).plat.keepsChip (flush bank chip s).cfg c = s.plat.keepsChip s.cfg c := by
  rw [flush_eq]
  rfl

/-- The flushed chips hold the bank, where the platform keeps what is written to them (R157). -/
theorem flushEach_chipKnown (bank c : Chip) (chips : List Chip) (o : Offset) (s : State) :
    (flushEach bank chips s).chipKnown c o =
      if s.plat.keepsChip s.cfg c = true ∧ c ∈ chips then some (shadowAt s bank o) else s.chipKnown c o := by
  induction chips generalizing s with
  | nil => simp
  | cons chip chips ih =>
    rw [flushEach_cons, ih, flush_keepsChip, flush_shadowAt, flush_chipKnown]
    by_cases hk : s.plat.keepsChip s.cfg c = true
    · by_cases hmem : c ∈ chips
      · simp [hk, hmem]
      · by_cases hc : c = chip
        · subst hc; simp [hk]
        · simp [hmem, hc]
    · have hne : ¬ (s.plat.keepsChip s.cfg chip = true ∧ c = chip) := fun ⟨hkeeps, hc⟩ => hk (hc ▸ hkeeps)
      simp [hk, hne]

theorem keepsChip_of_connected {s : State} {c : Chip} (hr : s.plat.released = false)
    (hc : c = 1 → s.cfg.chip1Connected = true) : s.plat.keepsChip s.cfg c = true := by
  unfold Platform.keepsChip
  by_cases h0 : c = 0
  · simp [hr, h0]
  · simp [hr, hc (Chip.eq_one h0)]

/-! ### The frame stop of a payload of the right length -/

theorem updCommit_shadow {s : State} (h : ¬ malformedUpdate s) (sel : UpdSel) :
    (updCommit sel s).shadow = (decodeUpdate sel.bank s).shadow := by
  rw [updCommit_wellFormed h, updFlush_shadow]

theorem shadowAt_updCommit {s : State} (h : ¬ malformedUpdate s) (sel : UpdSel) (c : Chip) (o : Offset) :
    shadowAt (updCommit sel s) c o =
      if c = sel.bank then (writtenAt s.cfg (bitmaskPairs s.ubuf) o).getD (shadowAt s c o) else shadowAt s c o := by
  rw [← shadowAt_applyPairs, shadowAt, updCommit_shadow h]
  rfl

theorem updCommit_flushEvents {s : State} (h : ¬ malformedUpdate s) (sel : UpdSel) :
    (updCommit sel s).plat.events =
      s.plat.events ++ (updateChips sel).flatMap fun chip => flushEvents sel.bank chip (updCommit sel s) := by
  have hdecode : (decodeUpdate sel.bank s).plat.events = s.plat.events :=
    congrArg (·.plat.events) (applyPairs_eq _ _ s)
  simp only [flushEvents_congr (updCommit_shadow h sel)]
  rw [updCommit_wellFormed h, updFlush_eq_flushEach, flushEach_events, hdecode]

theorem updCommit_chipKnown {s : State} (h : ¬ malformedUpdate s) (sel : UpdSel) (c : Chip) (o : Offset) :
    (updCommit sel s).chipKnown c o =
      if s.plat.keepsChip s.cfg c = true ∧ c ∈ updateChips sel then some (shadowAt (updCommit sel s) sel.bank o)
      else s.chipKnown c o := by
  have hshadow : shadowAt (updCommit sel s) sel.bank o = shadowAt (decodeUpdate sel.bank s) sel.bank o := by
    unfold shadowAt
    rw [updCommit_shadow h]
  rw [hshadow, updCommit_wellFormed h, updFlush_eq_flushEach, flushEach_chipKnown, decodeUpdate, applyPairs_eq]
  rfl

/-- A selected id whose offset no higher selected id has leaves its value byte there (R155, R156). -/
theorem writtenAt_bitmaskPairs {c : Config} {u : Vector Septet 36} {id : LogicalId} (hm : maskBit u id = true)
    (hlast : ∀ id' : LogicalId, id < id' → maskBit u id' = true → c.regmap[id'] ≠ c.regmap[id]) :
    ∃ x, u.toList[8 + rank u id]? = some x ∧
      writtenAt c (bitmaskPairs u) c.regmap[id] = some (withHigh (x.setWidth 8) (msbBit u id)) := by
  obtain ⟨x, before, after, hx, hpairs, hafter⟩ := bitmaskPairs_split hm
  have hnone : writtenAt c after c.regmap[id] = none :=
    writtenAt_eq_none.2 fun p hp => (hafter p hp).elim (hlast p.1)
  exact ⟨x, hx, by rw [hpairs, writtenAt_append, writtenAt_cons, hnone]; simp⟩

theorem writtenAt_bitmaskPairs_unselected {c : Config} {u : Vector Septet 36} {o : Offset}
    (h : ∀ id : LogicalId, maskBit u id = true → c.regmap[id] ≠ o) : writtenAt c (bitmaskPairs u) o = none :=
  writtenAt_eq_none.2 fun p hp => h p.1 (maskBit_of_mem_assignValues hp).2

/-- Settles O28: the operands of the payload give the bytes of the bank, the flushes the events and the chips. -/
theorem wellFormedUpdateIsDecodedAndFlushed : Obligations.WellFormedUpdateIsDecodedAndFlushed := by
  intro sel s h8 h36 hcount
  have hwf : ¬ malformedUpdate s := by unfold malformedUpdate; omega
  refine ⟨updCommit sel s, exec_update_stop sel s, ?_, fun id hm hlast => ?_, fun o hother => ?_, fun c o hc => ?_,
    updCommit_flushEvents hwf sel, ?_, fun c o hc => ?_, fun c o hc hr hconn => ?_⟩
  · rw [updCommit_eq]
  · obtain ⟨x, hx, hwritten⟩ := writtenAt_bitmaskPairs hm hlast
    exact ⟨x, hx, by rw [shadowAt_updCommit hwf, if_pos rfl, hwritten, Option.getD_some]⟩
  · rw [shadowAt_updCommit hwf, if_pos rfl, writtenAt_bitmaskPairs_unselected hother, Option.getD_none]
  · rw [shadowAt_updCommit hwf, if_neg hc]
  · rw [updCommit_eq]
  · rw [updCommit_chipKnown hwf, if_neg fun h => hc h.2]
  · rw [updCommit_chipKnown hwf, if_pos ⟨keepsChip_of_connected hr hconn, hc⟩]

/-! ### The same update again -/

theorem shadow_ext {s t : State} (h : ∀ c o, shadowAt t c o = shadowAt s c o) : t.shadow = s.shadow :=
  Vector.ext fun i hi => Vector.ext fun j hj => h ⟨i, hi⟩ ⟨j, hj⟩

/-- The registers that decide what the frame stop decodes are not its to change. -/
theorem updCommit_operands (sel : UpdSel) (s : State) :
    (updCommit sel s).ucnt = s.ucnt ∧ (updCommit sel s).ubuf = s.ubuf ∧ (updCommit sel s).cfg = s.cfg := by
  rw [updCommit_eq]
  exact ⟨rfl, rfl, rfl⟩

theorem malformedUpdate_updCommit (sel : UpdSel) (s : State) :
    malformedUpdate (updCommit sel s) ↔ malformedUpdate s := by
  obtain ⟨hcount, hbuf, -⟩ := updCommit_operands sel s
  unfold malformedUpdate
  rw [hcount, hbuf]

/-- Decoding the same operands again writes the bytes that stand there (R164). -/
theorem updCommit_updCommit_shadow (sel : UpdSel) (s : State) :
    (updCommit sel (updCommit sel s)).shadow = (updCommit sel s).shadow := by
  by_cases hmal : malformedUpdate s
  · rw [updCommit_malformed hmal, updCommit_malformed hmal]
  · obtain ⟨-, hbuf, hcfg⟩ := updCommit_operands sel s
    refine shadow_ext fun c o => ?_
    rw [shadowAt_updCommit (mt (malformedUpdate_updCommit sel s).1 hmal), hbuf, hcfg, shadowAt_updCommit hmal]
    by_cases hc : c = sel.bank
    · cases writtenAt s.cfg (bitmaskPairs s.ubuf) o <;> simp [hc]
    · simp [hc]

/-- Settles O29: a dropped frame is dropped again; any other decodes to the same bank, which it flushes again. -/
theorem repeatedUpdateChangesNothing : Obligations.RepeatedUpdateChangesNothing := by
  intro sel s t u ht hu
  rw [exec_update_stop] at ht hu
  cases ht
  cases hu
  have hshadow := updCommit_updCommit_shadow sel s
  refine ⟨hshadow, ?_⟩
  by_cases hmal : malformedUpdate s
  · rw [updCommit_malformed hmal, updCommit_malformed hmal]
    exact ⟨[], by simp, by simp⟩
  · refine ⟨_, updCommit_flushEvents hmal sel, ?_⟩
    rw [updCommit_flushEvents (mt (malformedUpdate_updCommit sel s).1 hmal)]
    simp only [flushEvents_congr hshadow]

end Sys2Proof.Machine
end

section
/-! SUPPORT. The single-register updates (41_shadow_update.md R159 to R163). -/

namespace Sys2Proof.Machine

/-! ### The parts of a single-register frame -/

theorem startRow_regKind (bank : Chip) : startRow (regKind bank) = (.updReg bank, .flush bank) := by
  by_cases h0 : bank = 0
  · subst h0; rfl
  · obtain rfl := Chip.eq_one h0; rfl

theorem exec_reg_command (bank : Chip) (s : State) :
    exec ((regKind bank).instr .command) s = .next (regStart bank s) := by
  by_cases h0 : bank = 0
  · subst h0; rfl
  · obtain rfl := Chip.eq_one h0; rfl

theorem exec_reg_data (bank : Chip) (b : Byte) (s : State) :
    exec ((regKind bank).instr (.data b)) s = .next (regByte bank b s) := by
  rw [exec_data, startRow_regKind]
  rfl

theorem exec_reg_stop (bank : Chip) (s : State) :
    exec ((regKind bank).instr .stop) s = .next (flush bank bank s) := by
  rw [exec_stop, startRow_regKind]
  rfl

/-! ### The pairs -/

/-- The id of a pair is its bits 5..0 (R104). -/
theorem pairId_eq_mod (x : Septet) : pairId x = x.toNat % 64 := by simp [pairId]

theorem applyPair_below {x : Septet} {id : LogicalId} (h : id.val = pairId x) (bank : Chip) (y : Byte) (s : State) :
    applyPair bank x y s = setShadow bank s.cfg.regmap[id] (pairValue x y) s := by
  obtain ⟨i, hi⟩ := id
  obtain rfl : i = pairId x := h
  exact dif_pos hi

theorem applyPair_beyond {x : Septet} (h : 28 ≤ pairId x) (bank : Chip) (y : Byte) (s : State) :
    applyPair bank x y s = s := dif_neg (Nat.not_lt.2 h)

theorem regByte_first {s : State} (h : s.urHave = false) (bank : Chip) (b : Byte) :
    regByte bank b s = { s with urIdx := b.setWidth 7, urHave := true } := by simp [regByte, h]

theorem regByte_second {s : State} (h : s.urHave = true) (bank : Chip) (b : Byte) :
    regByte bank b s = { applyPair bank s.urIdx b s with urHave := false } := if_pos h

/-- A pair without a register is the range condition (R161). -/
theorem conditions_reg_data {bank : Chip} {b : Byte} {s : State} (hf : s.fstate = .data) (hdh : s.dh = .updReg bank)
    (hb : b.msb = false) :
    conditions b s = if s.urHave = true ∧ 28 ≤ pairId s.urIdx then [.eRegRange] else [] := by
  simp only [conditions, classify_data.2 hb, hf, dataConds, hdh]

/-- Settles O30: the first byte of a pair, the second for an id with a register, and the second for one without. -/
theorem registerPairIsAppliedAtOnce : Obligations.RegisterPairIsAppliedAtOnce := by
  intro bank b s
  rw [exec_reg_data, ← pairId_eq_mod]
  refine ⟨fun h => by rw [regByte_first h], fun h id hid => ⟨_, rfl, ?_, fun c o => ?_⟩,
    fun h hid => ⟨?_, fun hf hdh hb => ?_⟩⟩
  · rw [regByte_second h, applyPair_below hid]
    rfl
  · rw [regByte_second h, applyPair_below hid]
    exact shadowAt_setShadow bank c _ o _ s
  · rw [regByte_second h, applyPair_beyond hid]
  · rw [conditions_reg_data hf hdh hb, if_pos ⟨h, hid⟩]

/-! ### The frame stop -/

theorem ePairDangling_mem_conditions {bank : Chip} {s : State} (hf : s.fstate = .data) (hdh : s.dh = .updReg bank)
    (hsh : s.sh = .flush bank) : Cond.ePairDangling ∈ conditions 0xF7#8 s ↔ s.urHave = true := by
  simp only [conditions, classify_frameStop.2 rfl, hf, stopConds, hsh, dangling, hdh, Bool.and_true]
  by_cases h : s.urHave = true <;> simp [h]

/-- Settles O31: the start handler, the condition at frame stop, and the flush of the bank to its chip. -/
theorem registerFrameFlushesItsBank : Obligations.RegisterFrameFlushesItsBank := by
  intro bank s
  refine ⟨exec_reg_command bank s, ePairDangling_mem_conditions, flush bank bank s, exec_reg_stop bank s, ?_, ?_, ?_,
    fun c o hc => ?_, fun o hr hconn => ?_⟩
  · rw [flush_eq]
  · rw [flush_eq]
    rfl
  · rw [flush_eq]
  · rw [flush_chipKnown, if_neg fun h => hc h.2]
  · rw [flush_chipKnown, if_pos ⟨keepsChip_of_connected hr hconn, rfl⟩]

end Sys2Proof.Machine
end

section
/-! SUPPORT. The loader byte by byte and payload by payload (42_loader.md R181 to R187; 43_rect.md R202 to R204). -/

namespace Sys2Proof.Machine

/-! ### The data handler of a packed command -/

/-- The data handler of a packed command is the loader (R128). -/
theorem startRow_packed {k : Kind} (h : k.family = .packed) : ∃ target rect, (startRow k).1 = .load target rect := by
  cases k <;> simp [Kind.family, startRow] at h ⊢

theorem startRow_loadKind (rect : Bool) : startRow (loadKind rect) = (.load .mem rect, .nop) := by cases rect <;> rfl

theorem startRow_recordKinds {k : Kind} {r : Record} (h : (k, r) ∈ recordKinds) :
    (startRow k).1 = .load (.record r) false := by
  simp only [recordKinds, List.mem_cons, Prod.mk.injEq, List.not_mem_nil, or_false] at h
  obtain ⟨rfl, rfl⟩ | ⟨rfl, rfl⟩ | ⟨rfl, rfl⟩ | ⟨rfl, rfl⟩ | ⟨rfl, rfl⟩ | ⟨rfl, rfl⟩ := h <;> rfl

/-- The two registers that say what the next payload byte is owed (R30, R31). -/
def withMask (m : Septet) (p : BitVec 3) (s : State) : State := { s with ldMask := m, ldPending := p }

theorem loadByte_mask {s : State} (h : s.ldPending = 0) (target : Target) (rect : Bool) (b : Byte) :
    loadByte target rect b s = .next (withMask (b.setWidth 7) 7 s) := if_pos h

theorem loadByte_owed {s : State} (h : s.ldPending ≠ 0) (target : Target) (rect : Bool) (b : Byte) :
    loadByte target rect b s = storeDecoded target rect (withHigh b (s.ldMask.getLsbD 0))
      (withMask (s.ldMask >>> 1) (s.ldPending - 1) s) := if_neg h

/-- Settles O32: with no byte owed the loader never looks at its target. -/
theorem maskByteStartsAGroup : Obligations.MaskByteStartsAGroup := by
  intro k b s hk hp
  obtain ⟨target, rect, hrow⟩ := startRow_packed hk
  rw [exec_data, hrow]
  exact loadByte_mask hp target rect b

/-- Settles O36: their stop handler is NOP. -/
theorem loadsHaveNoStopAction : Obligations.LoadsHaveNoStopAction := fun _ => ⟨rfl, rfl, rfl, rfl⟩

/-! ### One decoded byte to host memory -/

/-- Where an advance leaves the cursor (R204). -/
theorem advance_cursor {rect : Bool} {s t : State} (h : advance rect s = .next t) :
    (rect = false → t.cur = s.cur + 1 ∧ t.col = s.col) ∧
    (rect = true → s.col - 1 ≠ 0 → t.cur = s.cur + 1 ∧ t.col = s.col - 1) ∧
    (rect = true → s.col - 1 = 0 → t.cur = s.cur + 1 + rectSkip s ∧ t.col = s.rectSize) := by
  obtain ⟨-, hsize⟩ := advance_eq h
  refine ⟨fun hr => ?_, fun hr hc => ?_, fun hr hc => ?_⟩ <;> subst hr
  · cases h; exact ⟨rfl, rfl⟩
  · rw [advance_inside (hsize rfl) hc] at h; cases h; exact ⟨rfl, rfl⟩
  · rw [advance_rowEnd (hsize rfl) hc] at h; cases h; exact ⟨rfl, rfl⟩

/-- What is known of host memory after StoreMem (R182). -/
theorem storeMem_hostKnown {v : Byte} {rect : Bool} {s t : State} (h : storeMem v rect s = .next t) (a : HostAddr) :
    t.hostKnown a = if s.plat.keeps s.cfg s.cur = true ∧ a = s.cur then some v else s.hostKnown a := by
  obtain ⟨heq, -⟩ := advance_eq h
  rw [heq]
  exact memWrite_hostKnown s.cur a v s

/-- Settles O33: one MemWrite at the cursor, then one advance. -/
theorem loadStoresTheDecodedByte : Obligations.LoadStoresTheDecodedByte := by
  intro rect b v s hp hready hv
  obtain ⟨t, ht⟩ : ∃ t, storeMem v rect (withMask (s.ldMask >>> 1) (s.ldPending - 1) s) = .next t :=
    advance_total fun hr => hready hr one_ne_zero
  have heq := storeMem_eq ht
  have hknown := storeMem_hostKnown ht
  have hcursor := advance_cursor ht
  refine ⟨t, ?_, ?_, ?_, ?_, fun a ha => ?_, fun hk => ?_, hcursor⟩
  · rw [exec_data, startRow_loadKind, runData, loadByte_owed hp]
    subst hv
    exact ht
  · rw [heq]; rfl
  · rw [heq]; rfl
  · rw [heq]; rfl
  · rw [hknown, if_neg fun h => ha h.2]; rfl
  · exact (hknown s.cur).trans (if_pos ⟨hk, rfl⟩)

/-! ### One decoded byte to a record -/

/-- A decoded byte beyond its record is the overrun condition (R183). -/
theorem conditions_record_data {r : Record} {rect : Bool} {b : Byte} {s : State} (hf : s.fstate = .data)
    (hdh : s.dh = .load (.record r) rect) (hb : b.msb = false) :
    conditions b s = if s.ldPending ≠ 0 ∧ r.length ≤ s.ldIdx.toNat then [.eRecOverrun] else [] := by
  simp only [conditions, classify_data.2 hb, hf, dataConds, hdh]

theorem eRecOverrun_mem_conditions {r : Record} {rect : Bool} {b : Byte} {s : State} (hp : s.ldPending ≠ 0)
    (hf : s.fstate = .data) (hdh : s.dh = .load (.record r) rect) (hb : b.msb = false) :
    Cond.eRecOverrun ∈ conditions b s ↔ r.length ≤ s.ldIdx.toNat := by
  rw [conditions_record_data hf hdh hb]
  by_cases hlen : r.length ≤ s.ldIdx.toNat
  · rw [if_pos ⟨hp, hlen⟩]
    exact iff_of_true (List.mem_singleton.2 rfl) hlen
  · rw [if_neg fun h => hlen h.2]
    exact iff_of_false List.not_mem_nil hlen

/-- Settles O34: with a byte owed the loader is StoreRec of the decoded byte. -/
theorem recordLoadStoresTheDecodedByte : Obligations.RecordLoadStoresTheDecodedByte := by
  intro k r hkr b v s hp hv
  subst hv
  refine ⟨withMask (s.ldMask >>> 1) (s.ldPending - 1) (storeRec r (withHigh b (s.ldMask.getLsbD 0)) s), ?_, ?_,
    fun r' hne => ?_, fun hlt => ?_, fun hle => ?_, fun hf hdh hb => eRecOverrun_mem_conditions hp hf hdh hb, ?_⟩
  · rw [exec_data, startRow_recordKinds hkr, runData, loadByte_owed hp]
    exact congrArg Host.Outcome.next (storeRec_withMask r _ _ _ s)
  · exact (recordBytes_withMask _ _ _ r).trans (recordBytes_storeRec r _ s)
  · exact (recordBytes_withMask _ _ _ r').trans (recordBytes_storeRec_other hne _ s)
  · simp [withMask, storeRec, hlt]
  · rw [storeRec_beyond hle]; rfl
  · rw [storeRec_eq]; rfl

/-! ### A run of decoded bytes to host memory -/

/-- StoreMem of decoded bytes, one after another. -/
def storeMems (rect : Bool) : List Byte → State → Result
  | [], s => .next s
  | v :: vs, s => andThen (storeMem v rect s) (storeMems rect vs)

/-- The loader's mask registers have no part in what StoreMem does. -/
theorem storeMem_withMask (m : Septet) (p : BitVec 3) (v : Byte) (rect : Bool) :
    Ignores (withMask m p) (storeMem v rect) := by
  intro s t h
  have hmask := storeMem_ignores { s.working with ldMask := m, ldPending := p } v rect s t h
  rw [storeMem_eq h] at hmask ⊢
  exact hmask

theorem storeMems_withMask (m : Septet) (p : BitVec 3) (rect : Bool) (vs : List Byte) :
    Ignores (withMask m p) (storeMems rect vs) := by
  induction vs with
  | nil => exact ignores_next fun _ => rfl
  | cons v vs ih => exact (storeMem_withMask m p v rect).andThen ih

/-- Fed to a load to host memory, payload bytes store their decoded bytes; beside that only the mask registers
change. -/
theorem feed_memLoad {rect : Bool} {payload : List Byte} {s t : State} (hdata : ∀ b ∈ payload, b.msb = false)
    (hf : s.fstate = .data) (hdh : s.dh = .load .mem rect)
    (h : storeMems rect (unpackFrom s.ldPending.toNat s.ldMask payload) s = .next t) :
    ∃ m p, feed payload s = .next (withMask m p t) := by
  induction payload generalizing s t with
  | nil => cases h; exact ⟨s.ldMask, s.ldPending, rfl⟩
  | cons b bs ih =>
    obtain ⟨hb, hbs⟩ := List.forall_mem_cons.1 hdata
    rw [feed, stepByte_inData (classify_data.2 hb) hf, hdh, runData]
    by_cases hp : s.ldPending = 0
    · rw [loadByte_mask hp, andThen_next]
      rw [hp] at h
      exact ih (s := withMask (b.setWidth 7) 7 s) (t := withMask (b.setWidth 7) 7 t) hbs hf hdh
        (storeMems_withMask (b.setWidth 7) 7 rect (unpackFrom 7 (b.setWidth 7) bs) s t h)
    · have hpos : s.ldPending.toNat = (s.ldPending - 1).toNat + 1 := by bv_omega
      rw [hpos, unpackFrom] at h
      obtain ⟨u, hu, ht⟩ := andThen_eq_next.1 h
      have hmask := storeMem_withMask (s.ldMask >>> 1) (s.ldPending - 1) _ rect s u hu
      have hrest := storeMems_withMask (s.ldMask >>> 1) (s.ldPending - 1) rect _ u t ht
      rw [loadByte_owed hp, storeDecoded, hmask, andThen_next]
      exact ih (t := withMask (s.ldMask >>> 1) (s.ldPending - 1) t) hbs (by rw [storeMem_eq hu]; exact hf)
        (by rw [storeMem_eq hu]; exact hdh) hrest

/-- In the states of P j the cursor stands at addr j, and one advance, whatever a store did to the platform, leads from
P j to P (j + 1). -/
structure CursorWalk (rect : Bool) (addr : Nat → HostAddr) (P : Nat → State → Prop) : Prop where
  cur : ∀ {j u}, P j u → u.cur = addr j
  next : ∀ {j u} (p : Platform), P j u →
    ∃ t, advance rect { u with plat := p } = .next t ∧ t.plat = p ∧ P (j + 1) t

/-- Without rectangular progression the cursor goes from address to address. -/
theorem cursorWalk_linear (a : HostAddr) :
    CursorWalk false (fun j => a + BitVec.ofNat 16 j) fun j u => u.cur = a + BitVec.ofNat 16 j where
  cur h := h
  next {j u} p h := by
    refine ⟨_, rfl, rfl, ?_⟩
    simp only [h, BitVec.ofNat_add, BitVec.add_assoc]
    rfl

/-- With rectangular progression it goes through the addresses of R202. -/
theorem cursorWalk_rect {s : State} (hs : s.rectSize ≠ 0) :
    CursorWalk true (cursorAt true s) fun j u => AtByte true s u j where
  cur h := h.cur
  next p h := by
    obtain ⟨t, hadv, heq, hat⟩ := (h.of_plat p).advance fun _ => hs
    exact ⟨t, hadv, by rw [heq], hat⟩

/-- Along such a walk each decoded byte is one MemWrite at its address, and nothing else is issued (R182). -/
theorem CursorWalk.storeMems {rect : Bool} {addr : Nat → HostAddr} {P : Nat → State → Prop}
    (hw : CursorWalk rect addr P) (vs : List Byte) {j : Nat} {u : State} (hu : P j u) :
    ∃ t, storeMems rect vs u = .next t ∧ P (j + vs.length) t ∧
      t.plat.events = u.plat.events ++ vs.mapIdx fun i v => .memWrite (addr (j + i)) v := by
  induction vs generalizing j u with
  | nil => exact ⟨u, rfl, hu, by simp⟩
  | cons v vs ih =>
    obtain ⟨w, hadv, hplat, hw'⟩ := hw.next (memWrite u.cur v u).plat hu
    obtain ⟨t, hstore, hend, hevents⟩ := ih hw'
    have hstep : storeMem v rect u = .next w := hadv
    refine ⟨t, ?_, ?_, ?_⟩
    · rw [Machine.storeMems, hstep, andThen_next, hstore]
    · rwa [List.length_cons, Nat.add_comm vs.length, ← Nat.add_assoc]
    · rw [hevents, hplat, memWrite_events, hw.cur hu, List.mapIdx_cons]
      simp [Nat.add_assoc, Nat.add_comm 1]

/-- Linear stores go to the addresses from the cursor on, one after another (R182). -/
theorem storeMems_linear (vs : List Byte) (s : State) : ∃ t, storeMems false vs s = .next t ∧
    t.plat.events = s.plat.events ++ vs.mapIdx (fun i v => .memWrite (s.cur + BitVec.ofNat 16 i) v) ∧
    t.cur = s.cur + BitVec.ofNat 16 vs.length := by
  obtain ⟨t, hstore, hend, hevents⟩ := (cursorWalk_linear s.cur).storeMems vs (j := 0) (u := s) (by simp)
  exact ⟨t, hstore, by simpa using hevents, by simpa using hend⟩

/-- Rectangular stores from where the cursor was set up go to the addresses of R202. -/
theorem storeMems_rect {vs : List Byte} {s u : State} (hu : AtByte true s u 0) (hready : rectReady true vs.length s) :
    ∃ t, storeMems true vs u = .next t ∧
      t.plat.events = u.plat.events ++ vs.mapIdx (fun i v => .memWrite (cursorAt true s i) v) ∧
      t.cur = cursorAt true s vs.length := by
  by_cases hnil : vs = []
  · subst hnil
    exact ⟨u, rfl, by simp, hu.cur⟩
  · have hsize : s.rectSize ≠ 0 := hready rfl (by simpa using hnil)
    obtain ⟨t, hstore, hend, hevents⟩ := (cursorWalk_rect hsize).storeMems vs hu
    exact ⟨t, hstore, by simpa using hevents, by simpa using hend.cur⟩

/-! ### A whole payload -/

/-- From p bytes owed, P payload bytes begin (P + 7 - p) / 8 groups, each with a byte that is not stored (R181). -/
theorem unpackFrom_length {p : Nat} (hp : p ≤ 7) (m : Septet) (payload : List Byte) :
    (unpackFrom p m payload).length = payload.length - (payload.length + 7 - p) / 8 := by
  induction payload generalizing p m with
  | nil => simp [unpackFrom]
  | cons b bs ih =>
    cases p with
    | zero => rw [unpackFrom, ih (Nat.le_refl 7), List.length_cons]; omega
    | succ p => rw [unpackFrom, List.length_cons, ih (by omega), List.length_cons]; omega

/-- With no byte owed, the mask left from before has no part in what a payload decodes to. -/
theorem unpackFrom_zero (m : Septet) (payload : List Byte) : unpackFrom 0 m payload = unpack7 payload := by
  cases payload <;> rfl

/-- Settles O35: the loader stores the decoded bytes along the cursor's walk, or into the record. -/
theorem payloadCarriesSevenEighths : Obligations.PayloadCarriesSevenEighths := by
  intro payload vs s hall hvs hf hp
  have hdata := forall_data_of_all hall
  have hdecoded : unpackFrom s.ldPending.toNat s.ldMask payload = vs := by
    rw [hp, hvs]
    exact unpackFrom_zero s.ldMask payload
  refine ⟨hvs ▸ unpackFrom_length (Nat.zero_le 7) 0 payload, fun hdh => ?_, fun hdh hcur hcol hready => ?_,
    fun r hdh hidx => ?_⟩
  · obtain ⟨t, hstore, hevents, hend⟩ := storeMems_linear vs s
    obtain ⟨m, p, hfeed⟩ := feed_memLoad hdata hf hdh (hdecoded ▸ hstore)
    exact ⟨_, hfeed, hevents, hend⟩
  · have hstart : AtByte true s s 0 := ⟨hcur.trans (cursorAt_zero true s).symm, by simp [hcol], nofun, rfl, rfl, rfl⟩
    obtain ⟨t, hstore, hevents, hend⟩ := storeMems_rect hstart hready
    obtain ⟨m, p, hfeed⟩ := feed_memLoad hdata hf hdh (hdecoded ▸ hstore)
    exact ⟨_, hfeed, hevents, hend⟩
  · obtain ⟨m, p, hfeed⟩ := feed_recordLoad hdata hf hdh
    rw [hdecoded] at hfeed
    refine ⟨_, hfeed, ?_, storeRecs_plat r vs s⟩
    rw [recordBytes_withMask, recordBytes_storeRecs r vs s (by simp [hidx])]
    simp [hidx]

end Sys2Proof.Machine
end

section
/-! SUPPORT. Rectangular addressing (43_rect.md): what a run of stores leaves in host memory, the whole LOAD and
LOAD_RECT frames (R202, R207), and rectangular operations without a size (R205). -/

namespace Sys2Proof.Machine

/-! ### Bytes stored one after another -/

/-- From s to t host memory has taken the bytes vs in order, byte i at addr i: a kept address holds the last byte sent
to it, and the other addresses are as they were. -/
structure StoredAt (addr : Nat → HostAddr) (vs : List Byte) (s t : State) : Prop where
  other : ∀ {a}, (∀ i < vs.length, addr i ≠ a) → t.hostKnown a = s.hostKnown a
  last : ∀ {i v}, vs[i]? = some v → (∀ k, i < k → k < vs.length → addr k ≠ addr i) →
    s.plat.keeps s.cfg (addr i) = true → t.hostKnown (addr i) = some v

theorem StoredAt.nil (addr : Nat → HostAddr) (s : State) : StoredAt addr [] s s := ⟨fun _ => rfl, nofun⟩

/-- One byte more at the front: a later byte at its address replaces it. -/
theorem StoredAt.cons {addr : Nat → HostAddr} {v : Byte} {vs : List Byte} {s u t : State}
    (hknown : ∀ a, u.hostKnown a = if s.plat.keeps s.cfg (addr 0) = true ∧ a = addr 0 then some v else s.hostKnown a)
    (hkeeps : ∀ a, u.plat.keeps u.cfg a = s.plat.keeps s.cfg a) (h : StoredAt (fun i => addr (i + 1)) vs u t) :
    StoredAt addr (v :: vs) s t where
  other {a} hne := by
    have hrest : t.hostKnown a = u.hostKnown a := h.other fun i hi => hne (i + 1) (Nat.succ_lt_succ hi)
    rw [hrest, hknown, if_neg fun heq => hne 0 (Nat.succ_pos _) heq.2.symm]
  last {i w} hw hlast hk := by
    cases i with
    | zero =>
      have hrest : t.hostKnown (addr 0) = u.hostKnown (addr 0) :=
        h.other fun i hi => hlast (i + 1) (Nat.succ_pos i) (Nat.succ_lt_succ hi)
      rw [hrest, hknown, if_pos ⟨hk, rfl⟩, ← hw]
      rfl
    | succ i =>
      exact h.last hw (fun k hik hk => hlast (k + 1) (Nat.succ_lt_succ hik) (Nat.succ_lt_succ hk))
        ((hkeeps _).trans hk)

theorem storeMem_keeps {v : Byte} {rect : Bool} {s t : State} (h : storeMem v rect s = .next t) (a : HostAddr) :
    t.plat.keeps t.cfg a = s.plat.keeps s.cfg a := by
  rw [storeMem_eq h]
  rfl

/-- All that stores of decoded bytes do. -/
theorem storeMems_eq {rect : Bool} {vs : List Byte} {s t : State} (h : storeMems rect vs s = .next t) :
    t = { s with
      cur := t.cur, col := t.col
      plat := { s.plat with events := t.plat.events, hostMem := t.plat.hostMem } } := by
  induction vs generalizing s with
  | nil => cases h; rfl
  | cons v vs ih =>
    obtain ⟨u, hstore, hrest⟩ := andThen_eq_next.1 h
    rw [ih hrest, storeMem_eq hstore]

/-- One StoreMem is one step of the cursor's walk. -/
theorem CursorWalk.after_storeMem {rect : Bool} {addr : Nat → HostAddr} {P : Nat → State → Prop}
    (hw : CursorWalk rect addr P) {j : Nat} {v : Byte} {u t : State} (hu : P j u)
    (h : storeMem v rect u = .next t) : P (j + 1) t := by
  obtain ⟨t', hadv, -, ht'⟩ := hw.next (memWrite u.cur v u).plat hu
  obtain rfl : t' = t := Host.Outcome.next.inj (hadv.symm.trans h)
  exact ht'

/-- Along the cursor's walk the bytes are stored at its addresses. -/
theorem CursorWalk.storedAt {rect : Bool} {addr : Nat → HostAddr} {P : Nat → State → Prop}
    (hw : CursorWalk rect addr P) {vs : List Byte} {j : Nat} {u t : State} (hu : P j u)
    (h : Machine.storeMems rect vs u = .next t) : StoredAt (fun i => addr (j + i)) vs u t := by
  induction vs generalizing j u with
  | nil => cases h; exact .nil _ _
  | cons v vs ih =>
    obtain ⟨w, hstore, hrest⟩ := andThen_eq_next.1 h
    have hstored := ih (hw.after_storeMem hu hstore) hrest
    simp only [Nat.add_assoc, Nat.add_comm 1] at hstored
    refine .cons (fun a => ?_) (storeMem_keeps hstore) hstored
    rw [storeMem_hostKnown hstore, hw.cur hu]
    rfl

/-- With or without rectangular progression the cursor goes through the addresses of R202. -/
theorem cursorWalk_cursorAt {rect : Bool} {s : State} (hs : rect = true → s.rectSize ≠ 0) :
    CursorWalk rect (cursorAt rect s) fun j u => AtByte rect s u j where
  cur h := h.cur
  next p h := by
    obtain ⟨t, hadv, heq, hat⟩ := (h.of_plat p).advance hs
    exact ⟨t, hadv, by rw [heq], hat⟩

/-- From where the cursor was set up, stores go to the addresses of R202. -/
theorem storeMems_cursorAt {rect : Bool} {vs : List Byte} {s u : State} (hu : AtByte rect s u 0)
    (hready : rectReady rect vs.length s) :
    ∃ t, storeMems rect vs u = .next t ∧
      t.plat.events = u.plat.events ++ vs.mapIdx (fun i v => .memWrite (cursorAt rect s i) v) ∧
      StoredAt (cursorAt rect s) vs u t ∧ t.cur = cursorAt rect s vs.length := by
  by_cases hnil : vs = []
  · subst hnil
    exact ⟨u, rfl, by simp, .nil _ u, hu.cur⟩
  · have hw := cursorWalk_cursorAt fun hr => hready hr (by simpa using hnil)
    obtain ⟨t, hstore, hend, hevents⟩ := hw.storeMems vs hu
    have hstored := hw.storedAt hu hstore
    simp only [Nat.zero_add] at hend hevents hstored
    exact ⟨t, hstore, hevents, hstored, hend.cur⟩

/-! ### Whole LOAD and LOAD_RECT frames -/

theorem exec_loadStart (rect : Bool) (s : State) :
    exec ((loadKind rect).instr .command) s = .next (loadStart rect s) := by cases rect <;> rfl

/-- The state in which the payload of a load to host memory begins. -/
def loadOpened (rect : Bool) (s : State) : State :=
  { s with
    dh := .load .mem rect, sh := .nop, fstate := .data, cmd := s.cfg.code (loadKind rect)
    ldPending := 0, ldIdx := 0, cur := s.bufAddr, col := s.rectSize }

theorem loadOpened_atByte (rect : Bool) (s : State) : AtByte rect s (loadOpened rect s) 0 where
  cur := (cursorAt_zero rect s).symm
  col _ := by simp [loadOpened]
  fixed _ := rfl
  start := rfl
  size := rfl
  inc := rfl

/-- A whole frame of a load to host memory stores the bytes it carries; it has no stop action. -/
theorem feed_loadFrame {rect : Bool} {bytes : List Byte} {s t : State} (hd : s.cfg.codesDistinct)
    (hk : s.cfg.has (loadKind rect) = true) (h : storeMems rect bytes (loadOpened rect s) = .next t) :
    ∃ m p, feed (encodeFrame s.cfg ⟨loadKind rect, pack7 bytes⟩) s = .next (endFrame (withMask m p t)) := by
  have hdecoded : unpackFrom (loadOpened rect s).ldPending.toNat (loadOpened rect s).ldMask (pack7 bytes) = bytes :=
    unpackFrom_pack7 bytes _
  obtain ⟨m, p, hfeed⟩ := feed_memLoad (pack7_data bytes) rfl rfl (hdecoded.symm ▸ h)
  refine ⟨m, p, ?_⟩
  rw [feed_encodeFrame _ hd hk, exec_loadStart, andThen_next]
  refine (congrArg (andThen · frameStop) hfeed).trans ?_
  rw [andThen_next, frameStop, storeMems_eq h]
  rfl

/-- Settles O40: the packed payload decodes to the bytes, which are stored along the cursor's walk. -/
theorem loadFrameStoresItsBytes : Obligations.LoadFrameStoresItsBytes := by
  intro rect s bytes hd hk hready
  obtain ⟨t, hstore, hevents, hstored, hcur⟩ := storeMems_cursorAt (loadOpened_atByte rect s) hready
  obtain ⟨m, p, hfeed⟩ := feed_loadFrame hd hk hstore
  have heq := storeMems_eq hstore
  refine ⟨_, hfeed, hevents, ?_, ?_, fun a ha => hstored.other ha, fun j v hv hlast hkeeps => ?_, hcur, rfl⟩
  · rw [heq]; rfl
  · rw [heq]; rfl
  · exact hstored.last hv hlast hkeeps

/-! ### Rectangular operations without a size -/

/-- Where a store needs a size and has none, the byte has been written (R182, R205). -/
theorem storeMem_sizeZero {s : State} (hs : s.rectSize = 0) (v : Byte) :
    storeMem v true s = .refused (.rectSizeZero { s with cur := s.cur + 1, plat := (memWrite s.cur v s).plat }) :=
  advance_sizeZero (s := { s with plat := (memWrite s.cur v s).plat }) hs

theorem fillOnce_sizeZero {s : State} (hs : s.rectSize = 0) :
    fillOnce true s =
      .refused (.rectSizeZero { s with cur := s.cur + 1, plat := (memWrite s.cur s.fillValue s).plat }) :=
  congrArg (andThen · _) (storeMem_sizeZero hs s.fillValue)

/-- A copy reads its byte before it writes it (R220). -/
theorem copyOnce_sizeZero {s : State} (hs : s.rectSize = 0) :
    copyOnce true s = .refused (.rectSizeZero { s with
      cur := s.cur + 1, copyFrom := s.copyFrom + 1
      plat := (memWrite s.cur (s.hostByte s.copyFrom) (memRead s.copyFrom s).2).plat }) := by
  have hadv := advance_sizeZero (s := { s with
    copyFrom := s.copyFrom + 1
    plat := (memWrite s.cur (s.hostByte s.copyFrom) (memRead s.copyFrom s).2).plat }) hs
  unfold copyOnce
  simp only [memRead_fst]
  rw [memWrite_plat, memRead_plat]
  exact congrArg (fun r => andThen r fun s => .next { s with copyCount := s.copyCount - 1 }) hadv

/-- A count other than 0 is a first iteration and the rest. -/
theorem exists_toNat_eq_succ {n : BitVec 16} (hn : n ≠ 0) : ∃ m, n.toNat = m + 1 :=
  Nat.exists_eq_succ_of_ne_zero fun h0 => hn (BitVec.eq_of_toNat_eq h0)

/-- A fill of at least one byte stops at its first (R216). -/
theorem fillRun_sizeZero {s : State} (hs : s.rectSize = 0) (hn : s.fillCount ≠ 0) :
    fillRun true s = fillOnce true (cursorInit s) := by
  obtain ⟨n, hsucc⟩ := exists_toNat_eq_succ hn
  rw [fillRun, hsucc, fillLoop, fillOnce_sizeZero (s := cursorInit s) hs, andThen_refused]

/-- A copy of at least one byte stops at its first (R220). -/
theorem copyRun_sizeZero {s : State} (hs : s.rectSize = 0) (hn : s.copyCount ≠ 0) :
    copyRun true s = copyOnce true (cursorInit s) := by
  obtain ⟨n, hsucc⟩ := exists_toNat_eq_succ hn
  rw [copyRun, hsucc, copyLoop, copyOnce_sizeZero (s := cursorInit s) hs, andThen_refused]

theorem fillRun_zero (rect : Bool) {s : State} (hn : s.fillCount = 0) : fillRun rect s = .next (cursorInit s) := by
  rw [fillRun, hn]
  rfl

theorem copyRun_zero (rect : Bool) {s : State} (hn : s.copyCount = 0) : copyRun rect s = .next (cursorInit s) := by
  rw [copyRun, hn]
  rfl

theorem cursorInit_sizeZero {s : State} (hs : s.rectSize = 0) :
    cursorInit s = { s with cur := s.bufAddr, col := 0 } := by rw [cursorInit, hs]

theorem eRectSize0_mem_rectCond {s : State} (hs : s.rectSize = 0) (n : BitVec 16) :
    Cond.eRectSize0 ∈ rectCond true n s ↔ n ≠ 0 := by
  simp [rectCond, hs]

theorem eRectSize0_mem_dataConds {s : State} (hs : s.rectSize = 0) (hdh : s.dh = .load .mem true) :
    Cond.eRectSize0 ∈ dataConds s ↔ s.ldPending ≠ 0 := by
  simp [dataConds, hdh, hs]

/-- Settles O37: the first store is made, and the advance after it needs the size; with nothing to store no advance is
run. -/
theorem rectangularStoreNeedsASize : Obligations.RectangularStoreNeedsASize := by
  intro s hs
  refine ⟨fun b hp => ?_, fun hn => ?_, fun hn => ?_, ?_, fun hn => ?_, fun hn => ?_, eRectSize0_mem_dataConds hs,
    fun hsh => ?_, fun hsh => ?_⟩
  · have hstore := storeMem_sizeZero (s := withMask (s.ldMask >>> 1) (s.ldPending - 1) s) hs
      (withHigh b (s.ldMask.getLsbD 0))
    exact ⟨_, (loadByte_owed hp .mem true b).trans hstore, memWrite_events ..⟩
  · have hstop := (fillRun_sizeZero hs hn).trans (fillOnce_sizeZero (s := cursorInit s) hs)
    exact ⟨_, hstop, memWrite_events ..⟩
  · have hstop := (copyRun_sizeZero hs hn).trans (copyOnce_sizeZero (s := cursorInit s) hs)
    refine ⟨_, hstop, ?_⟩
    rw [memWrite_events, memRead_events, List.append_assoc]
    rfl
  · exact ⟨loadStart true s, rfl, rfl, rfl⟩
  · exact (fillRun_zero true hn).trans (congrArg _ (cursorInit_sizeZero hs))
  · exact (copyRun_zero true hn).trans (congrArg _ (cursorInit_sizeZero hs))
  · rw [stopConds, hsh]
    exact eRectSize0_mem_rectCond hs s.fillCount
  · rw [stopConds, hsh]
    exact eRectSize0_mem_rectCond hs s.copyCount

end Sys2Proof.Machine
end

section
/-! SUPPORT. Fill and copy (44_fill_copy.md): what the loops have done after n iterations, and what a linear copy over
its own source leaves (R216, R220). -/

namespace Sys2Proof.Machine

/-! ### Counted loops -/

/-- n iterations lead from P 0 to P n when iteration j leads from P j to P (j + 1). -/
theorem loop_invariant {once : State → Result} {loop : Nat → State → Result} (hzero : ∀ s, loop 0 s = .next s)
    (hsucc : ∀ n s, loop (n + 1) s = andThen (once s) (loop n)) {n : Nat} {P : Nat → State → Prop}
    (hstep : ∀ j < n, ∀ u, P j u → ∃ t, once u = .next t ∧ P (j + 1) t) {u : State} (hu : P 0 u) :
    ∃ t, loop n u = .next t ∧ P n t := by
  induction n generalizing P u with
  | zero => exact ⟨u, hzero u, hu⟩
  | succ n ih =>
    obtain ⟨w, honce, hw⟩ := hstep 0 n.succ_pos u hu
    obtain ⟨t, hloop, ht⟩ := ih (P := fun j => P (j + 1)) (fun j hj => hstep (j + 1) (Nat.succ_lt_succ hj)) hw
    exact ⟨t, by rw [hsucc, honce, andThen_next, hloop], ht⟩

/-! ### Bytes stored by a loop -/

/-- A byte of a list with one more at the end is a byte of the list or the one at the end. -/
theorem getElem?_concat_cases {vs : List Byte} {v w : Byte} {i : Nat} (h : (vs ++ [v])[i]? = some w) :
    vs[i]? = some w ∨ i = vs.length ∧ w = v := by
  rcases Nat.lt_or_ge i vs.length with hi | hi
  · exact .inl (by rwa [List.getElem?_append_left hi] at h)
  · rw [List.getElem?_append_right hi, List.getElem?_singleton] at h
    obtain ⟨hzero, rfl⟩ : i - vs.length = 0 ∧ v = w := by simpa using h
    exact .inr ⟨by omega, rfl⟩

/-- One byte more at the end: it replaces an earlier one at its address. -/
theorem StoredAt.concat {addr : Nat → HostAddr} {v : Byte} {vs : List Byte} {n : Nat} {s u t : State}
    (h : StoredAt addr vs s u) (hn : vs.length = n)
    (hknown : ∀ a, t.hostKnown a = if s.plat.keeps s.cfg (addr n) = true ∧ a = addr n then some v else u.hostKnown a) :
    StoredAt addr (vs ++ [v]) s t := by
  subst hn
  have hlen : (vs ++ [v]).length = vs.length + 1 := List.length_append
  refine ⟨fun {a} hne => ?_, fun {i w} hw hlast hk => ?_⟩
  · rw [hlen] at hne
    rw [hknown, if_neg fun heq => hne vs.length (Nat.lt_succ_self _) heq.2.symm]
    exact h.other fun i hi => hne i (Nat.lt_succ_of_lt hi)
  · rw [hlen] at hlast
    rcases getElem?_concat_cases hw with hw | ⟨rfl, rfl⟩
    · have hi : i < vs.length := (List.getElem?_eq_some_iff.1 hw).1
      rw [hknown, if_neg fun heq => hlast vs.length hi (Nat.lt_succ_self _) heq.2.symm]
      exact h.last hw (fun k hik hk => hlast k hik (Nat.lt_succ_of_lt hk)) hk
    · rw [hknown, if_pos ⟨hk, rfl⟩]

/-- Where all the bytes are one value, a kept address of theirs holds it, whichever of them came last. -/
theorem StoredAt.constant {addr : Nat → HostAddr} {v : Byte} {n j : Nat} {s t : State}
    (h : StoredAt addr (List.replicate n v) s t) (hj : j < n) (hk : s.plat.keeps s.cfg (addr j) = true) :
    t.hostKnown (addr j) = some v := by
  by_cases hlater : ∃ k, j < k ∧ k < n ∧ addr k = addr j
  · obtain ⟨k, hjk, hkn, heq⟩ := hlater
    rw [← heq] at hk ⊢
    exact h.constant hkn hk
  · refine h.last (by simp [hj]) (fun k hjk hkn heq => hlater ⟨k, hjk, by simpa using hkn, heq⟩) hk
termination_by n - j

/-! ### The fill loop -/

/-- From s, with the cursor set up, t is the state after n iterations of the fill loop (R216). -/
structure Filled (rect : Bool) (s : State) (n : Nat) (t : State) : Prop where
  atByte : AtByte rect s t n
  frame : t = { s with
    cur := t.cur, col := t.col, fillCount := s.fillCount - BitVec.ofNat 16 n
    plat := { s.plat with events := t.plat.events, hostMem := t.plat.hostMem } }
  events : t.plat.events = s.plat.events ++ (List.range n).map fun j => .memWrite (cursorAt rect s j) s.fillValue
  stored : StoredAt (cursorAt rect s) (List.replicate n s.fillValue) s t

theorem Filled.zero (rect : Bool) (s : State) : Filled rect s 0 (cursorInit s) where
  atByte := .zero rect s
  frame := by simp [cursorInit]
  events := by simp
  stored := ⟨fun _ => rfl, nofun⟩

/-- An iteration writes FILL_VALUE to the next address of R202 and counts down. -/
theorem Filled.fillOnce {rect : Bool} {s u : State} {n : Nat} (h : Filled rect s n u)
    (hs : rect = true → s.rectSize ≠ 0) : ∃ t, fillOnce rect u = .next t ∧ Filled rect s (n + 1) t := by
  obtain ⟨t, honce, hat, heq⟩ := h.atByte.fillOnce hs
  have hvalue : u.fillValue = s.fillValue := by rw [h.frame]
  have hkeeps : u.plat.keeps u.cfg (cursorAt rect s n) = s.plat.keeps s.cfg (cursorAt rect s n) := by
    rw [h.frame]; rfl
  refine ⟨t, honce, hat, ?_, ?_, ?_⟩
  · rw [heq, memWrite_eq, h.frame, BitVec.ofNat_add, ← BitVec.sub_sub]
    rfl
  · rw [heq, hvalue, memWrite_events, h.events, List.range_succ]
    simp
  · rw [List.replicate_succ']
    refine h.stored.concat List.length_replicate fun a => ?_
    rw [heq, hvalue, ← hkeeps]
    exact memWrite_hostKnown ..

theorem fillRun_filled {rect : Bool} {s : State} (hready : rectReady rect s.fillCount.toNat s) :
    ∃ t, fillRun rect s = .next t ∧ Filled rect s s.fillCount.toNat t :=
  loop_invariant (loop := fillLoop rect) (fun _ => rfl) (fun _ _ => rfl)
    (fun _ hj _ hu => hu.fillOnce fun hr => hready hr (Nat.ne_zero_of_lt hj)) (.zero rect s)

theorem exec_fill_stop (rect : Bool) (s : State) : exec ((fillKind rect).instr .stop) s = fillRun rect s := by
  cases rect <;> rfl

/-- Settles O41: the loop's invariant after FILL_COUNT iterations. -/
theorem fillWritesItsCount : Obligations.FillWritesItsCount := by
  intro rect s hready
  obtain ⟨t, hrun, hfilled⟩ := fillRun_filled hready
  refine ⟨t, (exec_fill_stop rect s).trans hrun, ?_, hfilled.events, ?_,
    fun a ha => hfilled.stored.other (by simpa using ha), fun j hj hk => hfilled.stored.constant hj hk,
    hfilled.atByte.fixed, fun hr _ => hfilled.atByte.col hr⟩
  · rw [hfilled.frame]
    simp [hfilled.atByte.cur]
  · rw [hfilled.frame]

/-! ### The copy loop -/

/-- Once the bytes of vs before j were sent, in order, byte i to addr i, over the memory of s, a read of a gives v: the
last of them sent to a, or what a held in s. -/
structure ReadsBack (addr : Nat → HostAddr) (vs : List Byte) (j : Nat) (s : State) (a : HostAddr) (v : Byte) :
    Prop where
  before : (∀ i < j, addr i ≠ a) → v = s.hostByte a
  last : ∀ i < j, addr i = a → (∀ k, i < k → k < j → addr k ≠ a) → vs[i]? = some v

theorem hostByte_eq {s : State} {a : HostAddr} (h : s.plat.keeps s.cfg a = true) :
    s.hostByte a = (s.hostKnown a).getD (Config.powerOnHost s.plat.epoch a) := by
  rw [State.hostByte, Platform.hostRead_keeps h]
  rfl

theorem hostByte_of_known {s : State} {a : HostAddr} {v : Byte} (h : s.plat.keeps s.cfg a = true)
    (hknown : s.hostKnown a = some v) : s.hostByte a = v := by
  rw [hostByte_eq h, hknown, Option.getD_some]

/-- In plain RAM a read gives the byte stored last. -/
theorem StoredAt.readsBack {addr : Nat → HostAddr} {vs : List Byte} {s u : State} (h : StoredAt addr vs s u)
    (hs : s.plat.Plain s.cfg) (hu : u.plat.Plain u.cfg) (hepoch : u.plat.epoch = s.plat.epoch) (a : HostAddr) :
    ReadsBack addr vs vs.length s a (u.hostByte a) where
  before hne := by rw [hostByte_eq (hu a), hostByte_eq (hs a), h.other hne, hepoch]
  last i hi heq hlast := by
    subst heq
    have hget := List.getElem?_eq_getElem hi
    rw [hget, hostByte_of_known (hu _) (h.last hget hlast (hs _))]

/-- What is read of the bytes before j does not depend on the later ones. -/
theorem ReadsBack.append {addr : Nat → HostAddr} {vs : List Byte} {j : Nat} {s : State} {a : HostAddr} {v : Byte}
    (h : ReadsBack addr vs j s a v) (ws : List Byte) : ReadsBack addr (vs ++ ws) j s a v where
  before := h.before
  last i hi heq hlast := by
    have hget := h.last i hi heq hlast
    rw [List.getElem?_append_left (List.getElem?_eq_some_iff.1 hget).1, hget]

/-- The events of byte j of a copy (R220). -/
def copyEvents (rect : Bool) (s : State) (j : Nat) (v : Byte) : List Event :=
  [.memRead (s.copyFrom + BitVec.ofNat 16 j), .memWrite (cursorAt rect s j) v]

/-- From s, with the cursor set up, t is the state after the iterations of the copy loop that read the bytes vs
(R220). -/
structure Copied (rect : Bool) (s : State) (vs : List Byte) (t : State) : Prop where
  atByte : AtByte rect s t vs.length
  frame : t = { s with
    cur := t.cur, col := t.col
    copyFrom := s.copyFrom + BitVec.ofNat 16 vs.length, copyCount := s.copyCount - BitVec.ofNat 16 vs.length
    plat := { s.plat with events := t.plat.events, hostMem := t.plat.hostMem, free := t.plat.free } }
  events : t.plat.events = s.plat.events ++ (vs.mapIdx (copyEvents rect s)).flatten
  stored : StoredAt (cursorAt rect s) vs s t
  reads : s.plainRam → ∀ {j v}, vs[j]? = some v →
    ReadsBack (cursorAt rect s) vs j s (s.copyFrom + BitVec.ofNat 16 j) v

theorem Copied.nil (rect : Bool) (s : State) : Copied rect s [] (cursorInit s) where
  atByte := .zero rect s
  frame := by simp [cursorInit]
  events := by simp
  stored := ⟨fun _ => rfl, nofun⟩
  reads _ := nofun

theorem Copied.keeps {rect : Bool} {s t : State} {vs : List Byte} (h : Copied rect s vs t) (a : HostAddr) :
    t.plat.keeps t.cfg a = s.plat.keeps s.cfg a := by
  rw [h.frame]; rfl

/-- In plain RAM an iteration reads the byte stored last. -/
theorem Copied.readsBack {rect : Bool} {s t : State} {vs : List Byte} (h : Copied rect s vs t) (hs : s.plainRam)
    (a : HostAddr) : ReadsBack (cursorAt rect s) vs vs.length s a (t.hostByte a) :=
  h.stored.readsBack (plain_of_plainRam hs) (fun x => (h.keeps x).trans (plain_of_plainRam hs x)) (by rw [h.frame]) a

theorem memRead_hostKnown (a x : HostAddr) (s : State) : (memRead a s).2.hostKnown x = s.hostKnown x := by
  rw [memRead_snd_eq]; rfl

theorem memRead_keeps (a x : HostAddr) (s : State) :
    (memRead a s).2.plat.keeps (memRead a s).2.cfg x = s.plat.keeps s.cfg x := by
  rw [memRead_snd_eq]; rfl

/-- An iteration reads the next source byte and writes it to the next address of R202. -/
theorem Copied.copyOnce {rect : Bool} {s u : State} {vs : List Byte} (h : Copied rect s vs u)
    (hs : rect = true → s.rectSize ≠ 0) :
    ∃ t, copyOnce rect u = .next t ∧ Copied rect s (vs ++ [u.hostByte u.copyFrom]) t := by
  obtain ⟨t, honce, hat, heq⟩ := h.atByte.copyOnce hs
  have hfrom : u.copyFrom = s.copyFrom + BitVec.ofNat 16 vs.length := by rw [h.frame]
  have hlen : (vs ++ [u.hostByte u.copyFrom]).length = vs.length + 1 := List.length_append
  refine ⟨t, honce, hlen ▸ hat, ?_, ?_, ?_, fun hplain j v hv => ?_⟩
  · rw [heq, memWrite_eq, memRead_snd_eq, hlen, h.frame, BitVec.ofNat_add, ← BitVec.sub_sub, ← BitVec.add_assoc]
    rfl
  · rw [heq, memWrite_events, memRead_events, h.events, List.mapIdx_concat, List.flatten_concat, copyEvents, ← hfrom]
    simp
  · refine h.stored.concat rfl fun a => ?_
    rw [← h.keeps, ← memRead_keeps u.copyFrom, ← memRead_hostKnown u.copyFrom a u, heq]
    exact memWrite_hostKnown ..
  · rcases getElem?_concat_cases hv with hv | ⟨rfl, rfl⟩
    · exact (h.reads hplain hv).append _
    · rw [← hfrom]
      exact (h.readsBack hplain _).append _

theorem copyRun_copied {rect : Bool} {s : State} (hready : rectReady rect s.copyCount.toNat s) :
    ∃ t, copyRun rect s = .next t ∧ ∃ vs, vs.length = s.copyCount.toNat ∧ Copied rect s vs t := by
  refine loop_invariant (loop := copyLoop rect) (P := fun n t => ∃ vs, vs.length = n ∧ Copied rect s vs t)
    (fun _ => rfl) (fun _ _ => rfl) ?_ ⟨[], rfl, .nil rect s⟩
  rintro j hj u ⟨vs, rfl, hu⟩
  obtain ⟨t, honce, ht⟩ := hu.copyOnce fun hr => hready hr (Nat.ne_zero_of_lt hj)
  exact ⟨t, honce, _, List.length_append, ht⟩

theorem exec_copy_stop (rect : Bool) (s : State) : exec ((copyKind rect).instr .stop) s = copyRun rect s := by
  cases rect <;> rfl

/-- Settles O42: the loop's invariant after COPY_COUNT iterations. -/
theorem copyMovesItsCount : Obligations.CopyMovesItsCount := by
  intro rect s n hn hready
  subst hn
  obtain ⟨t, hrun, vs, hlen, hcopied⟩ := copyRun_copied hready
  rw [← hlen]
  refine ⟨t, vs, (exec_copy_stop rect s).trans hrun, rfl, ?_, hcopied.events, ?_, hcopied.atByte.fixed,
    fun hr _ => hcopied.atByte.col hr, fun a ha => hcopied.stored.other ha, fun hplain j v hv => ?_⟩
  · rw [hcopied.frame]
    simp [hcopied.atByte.cur, hlen]
  · rw [hcopied.frame]
  · obtain ⟨hbefore, hlast⟩ := hcopied.reads hplain hv
    exact ⟨hbefore, hlast, fun hlater => hcopied.stored.last hv hlater (plain_of_plainRam hplain _)⟩

/-! ### A linear copy over its own source -/

theorem cursorAt_linear (s : State) (j : Nat) : cursorAt false s j = s.bufAddr + BitVec.ofNat 16 j :=
  BitVec.add_zero _

/-- Destination byte i of a linear copy is source byte j, neither of them beyond the address space, exactly when j is i
and the distance. -/
theorem destination_eq_source {s : State} {d i j : Nat} (hd : d = (s.bufAddr - s.copyFrom).toNat) (hij : i ≤ j)
    (hj : j < 2 ^ 16) : cursorAt false s i = s.copyFrom + BitVec.ofNat 16 j ↔ d + i = j := by
  rw [cursorAt_linear]
  subst hd
  constructor <;> intro h <;> bv_omega

/-- In plain RAM a linear copy reads its source again with the distance as the period (R220). -/
theorem Copied.reads_periodic {s t : State} {vs : List Byte} {d : Nat} (h : Copied false s vs t) (hs : s.plainRam)
    (hd : d = (s.bufAddr - s.copyFrom).toNat) (hlen : vs.length < 2 ^ 16) {j : Nat} {v : Byte} (hv : vs[j]? = some v) :
    v = s.hostByte (s.copyFrom + BitVec.ofNat 16 (j % d)) := by
  have hj : j < vs.length := (List.getElem?_eq_some_iff.1 hv).1
  have hmeets : ∀ i < j, cursorAt false s i = s.copyFrom + BitVec.ofNat 16 j ↔ d + i = j :=
    fun i hi => destination_eq_source hd hi.le (hj.trans hlen)
  obtain ⟨hbefore, hlast⟩ := h.reads hs hv
  by_cases hperiod : 0 < d ∧ d ≤ j
  · obtain ⟨hpos, hle⟩ := hperiod
    have hprev : vs[j - d]? = some v :=
      hlast (j - d) (by omega) ((hmeets _ (by omega)).2 (by omega)) fun k hk hkj heq => by
        have := (hmeets k hkj).1 heq
        omega
    rw [Nat.mod_eq_sub_mod hle]
    exact h.reads_periodic hs hd hlen hprev
  · have hmod : j % d = j := by
      rcases Nat.eq_zero_or_pos d with rfl | hpos
      · exact Nat.mod_zero j
      · exact Nat.mod_eq_of_lt (by omega)
    rw [hmod]
    exact hbefore fun i hi heq => by
      have := (hmeets i hi).1 heq
      omega
termination_by j

/-- The destination addresses of a linear copy differ. -/
theorem cursorAt_linear_ne {s : State} {i j : Nat} (hij : i < j) (hj : j < 2 ^ 16) :
    cursorAt false s j ≠ cursorAt false s i := by
  rw [cursorAt_linear, cursorAt_linear]
  bv_omega

/-- Settles O43: each destination holds the byte read for it, and the bytes read repeat with the distance. -/
theorem overlappingCopyRepeatsTheSource : Obligations.OverlappingCopyRepeatsTheSource := by
  intro s d hplain hd
  obtain ⟨t, hrun, vs, hlen, hcopied⟩ := copyRun_copied (rect := false) (s := s) nofun
  refine ⟨t, hrun, fun j hj => ?_⟩
  have hspace : vs.length < 2 ^ 16 := hlen ▸ s.copyCount.isLt
  have hget : vs[j]? = some vs[j] := List.getElem?_eq_getElem (hlen ▸ hj)
  have hknown := hcopied.stored.last hget (fun k hjk hk => cursorAt_linear_ne hjk (hk.trans hspace))
    (plain_of_plainRam hplain _)
  rw [← cursorAt_linear, hostByte_of_known ((hcopied.keeps _).trans (plain_of_plainRam hplain _)) hknown]
  exact hcopied.reads_periodic hplain hd hspace hget

end Sys2Proof.Machine
end

section
/-! SUPPORT. What DMA transfers leave when one follows another (20_memory.md R64). -/

namespace Sys2Proof.Machine

/-! ### Bytes sent one after another -/

/-- From the contents before to the contents after, n bytes were sent in order, byte i to addr i: the other addresses
are as they were, and where the memory is plain an address holds the last byte sent to it. -/
structure SentTo {α : Type} (addr : Nat → α) (val : Nat → Byte) (n : Nat) (plain : Prop)
    (before after : α → Option Byte) : Prop where
  other : ∀ {a}, (∀ i < n, addr i ≠ a) → after a = before a
  last : plain → ∀ i < n, (∀ k, i < k → k < n → addr k ≠ addr i) → after (addr i) = some (val i)

theorem SentTo.zero {α : Type} (addr : Nat → α) (val : Nat → Byte) (plain : Prop) (before : α → Option Byte) :
    SentTo addr val 0 plain before before := ⟨fun _ => rfl, nofun⟩

/-- Bytes sent after others: a later one replaces an earlier one at its address. -/
theorem SentTo.append {α : Type} {addr addr' : Nat → α} {val val' : Nat → Byte} {n m : Nat} {plain plain' : Prop}
    {before middle after : α → Option Byte} (h : SentTo addr val n plain before middle)
    (h' : SentTo addr' val' m plain' middle after) (hplain : plain → plain')
    (haddr : ∀ i < m, addr (n + i) = addr' i) (hval : plain → ∀ i < m, val (n + i) = val' i) :
    SentTo addr val (n + m) plain before after where
  other {a} hne := by
    have hrest : after a = middle a := h'.other fun i hi => haddr i hi ▸ hne (n + i) (by omega)
    rw [hrest, h.other fun i hi => hne i (by omega)]
  last hp i hi hlast := by
    rcases Nat.lt_or_ge i n with hin | hin
    · have hrest : after (addr i) = middle (addr i) :=
        h'.other fun k hk => haddr k hk ▸ hlast (n + k) (by omega) (by omega)
      rw [hrest, h.last hp i hin fun k hik hk => hlast k hik (by omega)]
    · obtain ⟨j, rfl⟩ := Nat.exists_eq_add_of_le hin
      have hj : j < m := by omega
      rw [haddr j hj, hval hp j hj]
      refine h'.last (hplain hp) j hj fun k hjk hk => ?_
      rw [← haddr k hk, ← haddr j hj]
      exact hlast (n + k) (by omega) (by omega)

/-! ### Bytes stashed, bytes fetched -/

/-- From s to t, n bytes of host memory were stashed in order, byte j from h j to d j (R64). -/
structure Stashed (h : Nat → HostAddr) (d : Nat → DevAddr) (n : Nat) (s t : State) : Prop where
  cfg : t.cfg = s.cfg
  plat : t.plat = { s.plat with
    events := t.plat.events, devMem := t.plat.devMem, devLen := t.plat.devLen, free := t.plat.free }
  sent : SentTo d (fun j => s.hostByte (h j)) n s.plainRam s.devKnown t.devKnown

/-- From s to t, n bytes of device memory were fetched in order, byte j from d j to h j (R64). -/
structure Fetched (h : Nat → HostAddr) (d : Nat → DevAddr) (n : Nat) (s t : State) : Prop where
  cfg : t.cfg = s.cfg
  plat : t.plat = { s.plat with
    events := t.plat.events, hostMem := t.plat.hostMem, devLen := t.plat.devLen, free := t.plat.free }
  sent : SentTo h (fun j => s.devByte (d j)) n s.plainRam s.hostKnown t.hostKnown

theorem dmaXfer_stashed (n : Byte) (h : HostAddr) (d : DevAddr) (s : State) :
    Stashed (fun i => h + BitVec.ofNat 16 i) (fun i => d + BitVec.ofNat 24 i) n.toNat s (dmaXfer .stash n h d s) where
  cfg := rfl
  plat := by rw [dmaXfer_stash_eq]
  sent := ⟨fun {x} hx => dmaXfer_stash_devKnown_other n h d x s hx,
    fun hs _ hi _ => dmaXfer_stash_devKnown hs hi h d⟩

theorem dmaXfer_fetched (n : Byte) (h : HostAddr) (d : DevAddr) (s : State) :
    Fetched (fun i => h + BitVec.ofNat 16 i) (fun i => d + BitVec.ofNat 24 i) n.toNat s (dmaXfer .fetch n h d s) where
  cfg := rfl
  plat := by rw [dmaXfer_fetch_eq]
  sent := ⟨fun {x} hx => dmaXfer_fetch_hostKnown_other n h x d s hx,
    fun hs _ hi _ => dmaXfer_fetch_hostKnown hs hi h d⟩

theorem plainRam_congr {s t : State} (hr : t.plat.released = s.plat.released) (hc : t.cfg = s.cfg) :
    t.plainRam ↔ s.plainRam := by
  rw [State.plainRam, hr, hc]
  rfl

/-- A stash does not write what it reads. -/
theorem Stashed.hostByte {h : Nat → HostAddr} {d : Nat → DevAddr} {n : Nat} {s t : State} (hst : Stashed h d n s t)
    (hs : s.plainRam) (a : HostAddr) : t.hostByte a = s.hostByte a := by
  have ht : t.plainRam := (plainRam_congr (by rw [hst.plat]) hst.cfg).2 hs
  rw [hostByte_eq (plain_of_plainRam ht a), hostByte_eq (plain_of_plainRam hs a), State.hostKnown, hst.plat]
  rfl

/-- A fetch does not write what it reads. -/
theorem Fetched.devByte {h : Nat → HostAddr} {d : Nat → DevAddr} {n : Nat} {s t : State} (hst : Fetched h d n s t)
    (hs : s.plainRam) (x : DevAddr) : t.devByte x = s.devByte x := by
  have ht : t.plainRam := (plainRam_congr (by rw [hst.plat]) hst.cfg).2 hs
  rw [State.devByte, State.devByte, Platform.devRead_plain (plain_of_plainRam ht),
    Platform.devRead_plain (plain_of_plainRam hs), hst.plat]

theorem Stashed.append {h h' : Nat → HostAddr} {d d' : Nat → DevAddr} {n m : Nat} {s u t : State}
    (hfirst : Stashed h d n s u) (hthen : Stashed h' d' m u t) (hh : ∀ i < m, h (n + i) = h' i)
    (hd : ∀ i < m, d (n + i) = d' i) : Stashed h d (n + m) s t where
  cfg := hthen.cfg.trans hfirst.cfg
  plat := by rw [hthen.plat, hfirst.plat]
  sent := hfirst.sent.append hthen.sent (plainRam_congr (by rw [hfirst.plat]) hfirst.cfg).2 hd
    fun hs i hi => by rw [hh i hi, hfirst.hostByte hs]

theorem Fetched.append {h h' : Nat → HostAddr} {d d' : Nat → DevAddr} {n m : Nat} {s u t : State}
    (hfirst : Fetched h d n s u) (hthen : Fetched h' d' m u t) (hh : ∀ i < m, h (n + i) = h' i)
    (hd : ∀ i < m, d (n + i) = d' i) : Fetched h d (n + m) s t where
  cfg := hthen.cfg.trans hfirst.cfg
  plat := by rw [hthen.plat, hfirst.plat]
  sent := hfirst.sent.append hthen.sent (plainRam_congr (by rw [hfirst.plat]) hfirst.cfg).2 hh
    fun hs i hi => by rw [hd i hi, hfirst.devByte hs]

end Sys2Proof.Machine
end

section
/-! SUPPORT. The chunked DMA sequencer (45_dma.md): what the loop has done after k chunks, where it stops, and what the
six commands leave in memory (R235 to R246). -/

namespace Sys2Proof.Machine

/-! ### The addresses of the bytes -/

/-- The host address of the j-th byte of a DMA operation: byte j % RECT_SIZE of chunk j / RECT_SIZE (R246). -/
def byteHost (rect : Bool) (s : State) (j : Nat) : HostAddr :=
  chunkHost rect s (j / s.rectSize.toNat) + BitVec.ofNat 16 (j % s.rectSize.toNat)

/-- The device address of the j-th byte of a DMA operation (R246). -/
def byteDev (mode : DmaMode) (s : State) (j : Nat) : DevAddr :=
  chunkDev mode s (j / s.rectSize.toNat) + BitVec.ofNat 24 (j % s.rectSize.toNat)

theorem chunk_div {m i : Nat} (k : Nat) (hi : i < m) : (k * m + i) / m = k := by
  rw [Nat.add_comm, Nat.add_mul_div_right i k (by omega), Nat.div_eq_of_lt hi, Nat.zero_add]

theorem chunk_lt {m n j : Nat} (h : j < n * m) : j / m < n := Nat.div_lt_of_lt_mul (Nat.mul_comm n m ▸ h)

theorem chunkOffset_lt {m n j : Nat} (h : j < n * m) : j % m < m :=
  Nat.mod_lt j (Nat.pos_of_ne_zero fun h0 => by simp [h0] at h)

theorem byteHost_chunk (rect : Bool) {s : State} (k : Nat) {i : Nat} (hi : i < s.rectSize.toNat) :
    byteHost rect s (k * s.rectSize.toNat + i) = chunkHost rect s k + BitVec.ofNat 16 i := by
  rw [byteHost, chunk_div k hi, Nat.mul_add_mod', Nat.mod_eq_of_lt hi]

theorem byteDev_chunk (mode : DmaMode) {s : State} (k : Nat) {i : Nat} (hi : i < s.rectSize.toNat) :
    byteDev mode s (k * s.rectSize.toNat + i) = chunkDev mode s k + BitVec.ofNat 24 i := by
  rw [byteDev, chunk_div k hi, Nat.mul_add_mod', Nat.mod_eq_of_lt hi]

theorem ofNat_chunkOffset {w : Nat} (size j : Nat) :
    BitVec.ofNat w (j / size) * BitVec.ofNat w size + BitVec.ofNat w (j % size) = BitVec.ofNat w j := by
  rw [← BitVec.ofNat_mul, ← BitVec.ofNat_add, Nat.div_add_mod']

theorem byteHost_linear (s : State) (j : Nat) : byteHost false s j = s.bufAddr + BitVec.ofNat 16 j := by
  rw [byteHost, chunkHost, BitVec.add_assoc, ← ofNat_chunkOffset s.rectSize.toNat j]
  simp

theorem byteDev_incr (s : State) (j : Nat) : byteDev .incr s j = s.dmaDevAddr + BitVec.ofNat 24 j := by
  rw [byteDev, chunkDev, BitVec.add_assoc, ← ofNat_chunkOffset s.rectSize.toNat j]
  simp

/-- Offsets below the size of the space lead to different addresses. -/
theorem add_ofNat_ne {w i k : Nat} (x : BitVec w) (hik : i < k) (hk : k < 2 ^ w) :
    x + BitVec.ofNat w k ≠ x + BitVec.ofNat w i := by
  intro h
  have hnat := congrArg BitVec.toNat ((BitVec.add_right_inj x).1 h)
  rw [BitVec.toNat_ofNat, BitVec.toNat_ofNat, Nat.mod_eq_of_lt hk, Nat.mod_eq_of_lt (hik.trans hk)] at hnat
  exact hik.ne' hnat

/-! ### The state after k chunks -/

/-- From s, t is the state of a DMA operation that set up the cursors and issued k chunks (R240, R246). -/
structure Chunked (dir : DmaDir) (mode : DmaMode) (rect : Bool) (s : State) (k : Nat) (t : State) : Prop where
  atChunk : AtChunk mode rect s t k
  frame : t = { s with
    cur := t.cur, col := s.rectSize, dcur := t.dcur
    dmaCount := s.dmaCount - BitVec.ofNat 16 k * s.rectSize.setWidth 16
    plat := t.plat }
  events : t.plat.events = s.plat.events ++ (List.range k).map (chunkEvent dir mode rect s)
  devLen : t.plat.devLen = if k = 0 then s.plat.devLen else s.plat.lengthAfter
  released : t.plat.released = s.plat.released
  stashed : dir = .stash → Stashed (byteHost rect s) (byteDev mode s) (k * s.rectSize.toNat) s t
  fetched : dir = .fetch → Fetched (byteHost rect s) (byteDev mode s) (k * s.rectSize.toNat) s t

/-- The state after the cursors were set up and k chunks issued. -/
def afterChunks (dir : DmaDir) (mode : DmaMode) (rect : Bool) (s : State) : Nat → State
  | 0 => { cursorInit s with dcur := s.dmaDevAddr }
  | k + 1 => dmaChunk dir mode rect (afterChunks dir mode rect s k)

theorem Chunked.zero (dir : DmaDir) (mode : DmaMode) (rect : Bool) (s : State) :
    Chunked dir mode rect s 0 (afterChunks dir mode rect s 0) where
  atChunk := .zero mode rect s
  frame := by simp [afterChunks, cursorInit]
  events := by simp [afterChunks]
  devLen := rfl
  released := rfl
  stashed _ := ⟨rfl, rfl, by rw [Nat.zero_mul]; exact .zero ..⟩
  fetched _ := ⟨rfl, rfl, by rw [Nat.zero_mul]; exact .zero ..⟩

/-- One more chunk is one transfer, of the next RECT_SIZE bytes. -/
theorem Chunked.dmaChunk {dir : DmaDir} {mode : DmaMode} {rect : Bool} {s u : State} {k : Nat}
    (h : Chunked dir mode rect s k u) : Chunked dir mode rect s (k + 1) (dmaChunk dir mode rect u) := by
  obtain ⟨hat, heq⟩ := h.atChunk.dmaChunk (dir := dir)
  have hplat := congrArg State.plat heq
  have hcfg := congrArg State.cfg heq
  refine ⟨hat, ?_, ?_, ?_, ?_, ?_, ?_⟩
  · rw [heq, h.frame, BitVec.ofNat_add, BitVec.add_mul, BitVec.one_mul, ← BitVec.sub_sub]
  · rw [hplat, dmaXfer_events, h.events, List.range_succ]
    simp [chunkEvent]
  · rw [hplat, dmaXfer_plat, if_neg k.succ_ne_zero, Platform.lengthAfter, h.released]
    rfl
  · rw [hplat, dmaXfer_released, h.released]
  · rintro rfl
    obtain ⟨-, hxplat, hxsent⟩ := dmaXfer_stashed s.rectSize (chunkHost rect s k) (chunkDev mode s k) u
    rw [Nat.succ_mul]
    refine (h.stashed rfl).append ⟨hcfg, ?_, ?_⟩ (fun _ => byteHost_chunk rect k) fun _ => byteDev_chunk mode k
    · rw [hplat, hxplat]
    · rw [heq]; exact hxsent
  · rintro rfl
    obtain ⟨-, hxplat, hxsent⟩ := dmaXfer_fetched s.rectSize (chunkHost rect s k) (chunkDev mode s k) u
    rw [Nat.succ_mul]
    refine (h.fetched rfl).append ⟨hcfg, ?_, ?_⟩ (fun _ => byteHost_chunk rect k) fun _ => byteDev_chunk mode k
    · rw [hplat, hxplat]
    · rw [heq]; exact hxsent

theorem chunked (dir : DmaDir) (mode : DmaMode) (rect : Bool) (s : State) (k : Nat) :
    Chunked dir mode rect s k (afterChunks dir mode rect s k) := by
  induction k with
  | zero => exact .zero dir mode rect s
  | succ k ih => exact ih.dmaChunk

theorem afterChunks_size (dir : DmaDir) (mode : DmaMode) (rect : Bool) (s : State) (k : Nat) :
    (afterChunks dir mode rect s k).rectSize = s.rectSize := (chunked dir mode rect s k).atChunk.size

/-- While the chunks fit into DMA_COUNT, it holds what they leave of it. -/
theorem afterChunks_count (dir : DmaDir) (mode : DmaMode) (rect : Bool) {s : State} {k : Nat}
    (hk : k * s.rectSize.toNat ≤ s.dmaCount.toNat) :
    (afterChunks dir mode rect s k).dmaCount.toNat = s.dmaCount.toNat - k * s.rectSize.toNat := by
  have hcount : (afterChunks dir mode rect s k).dmaCount =
      s.dmaCount - BitVec.ofNat 16 k * s.rectSize.setWidth 16 := by
    rw [(chunked dir mode rect s k).frame]
  have hlt : k * s.rectSize.toNat < 2 ^ 16 := hk.trans_lt s.dmaCount.isLt
  have hprod : (BitVec.ofNat 16 k * s.rectSize.setWidth 16).toNat = k * s.rectSize.toNat := by
    simpa [BitVec.toNat_mul] using hlt
  rw [hcount, BitVec.toNat_sub_of_le (by rw [BitVec.le_def, hprod]; exact hk), hprod]

/-! ### The loop -/

/-- With no bytes left the loop ends (R240). -/
theorem dmaLoop_done (dir : DmaDir) (mode : DmaMode) (rect : Bool) (n : Nat) {s : State} (h : s.dmaCount = 0) :
    dmaLoop dir mode rect n s = .next s := by
  cases n with
  | zero => rfl
  | succ n => rw [dmaLoop, if_pos h]

/-- With bytes to move and no size the loop is stuck (R243, U5). -/
theorem dmaLoop_stuck (dir : DmaDir) (mode : DmaMode) (rect : Bool) (n : Nat) {s : State} (h : s.dmaCount ≠ 0)
    (hs : s.rectSize = 0) : dmaLoop dir mode rect (n + 1) s = .fault (.dmaStuck s) := by
  rw [dmaLoop, if_neg h, if_pos hs]

/-- With fewer bytes left than a chunk the loop has no meaning (R243, U4). -/
theorem dmaLoop_misaligned (dir : DmaDir) (mode : DmaMode) (rect : Bool) (n : Nat) {s : State} (h : s.dmaCount ≠ 0)
    (hlt : s.dmaCount.toNat < s.rectSize.toNat) :
    dmaLoop dir mode rect (n + 1) s = .refused (.dmaMisaligned s) := by
  have hs : s.rectSize ≠ 0 := fun h0 => by simp [h0] at hlt
  rw [dmaLoop, if_neg h, if_neg hs, if_pos hlt]

/-- With a chunk's bytes left the loop issues a chunk (R240). -/
theorem dmaLoop_chunk (dir : DmaDir) (mode : DmaMode) (rect : Bool) (n : Nat) {s : State} (hs : s.rectSize ≠ 0)
    (hle : s.rectSize.toNat ≤ s.dmaCount.toNat) :
    dmaLoop dir mode rect (n + 1) s = dmaLoop dir mode rect n (dmaChunk dir mode rect s) := by
  have hpos : s.rectSize.toNat ≠ 0 := fun h0 => hs (BitVec.eq_of_toNat_eq h0)
  have h : s.dmaCount ≠ 0 := by
    intro h0
    rw [h0] at hle
    exact hpos (Nat.le_zero.1 hle)
  rw [dmaLoop, if_neg h, if_neg hs, if_neg (by omega)]

/-- The loop issues chunks as long as they fit into DMA_COUNT. -/
theorem dmaLoop_afterChunks (dir : DmaDir) (mode : DmaMode) (rect : Bool) {s : State} (hs : s.rectSize ≠ 0) {k : Nat}
    (hk : k * s.rectSize.toNat ≤ s.dmaCount.toNat) (m : Nat) :
    dmaLoop dir mode rect (k + m) (afterChunks dir mode rect s 0) =
      dmaLoop dir mode rect m (afterChunks dir mode rect s k) := by
  induction k generalizing m with
  | zero => rw [Nat.zero_add]
  | succ k ih =>
    rw [Nat.succ_mul] at hk
    have hfits : k * s.rectSize.toNat ≤ s.dmaCount.toNat := by omega
    rw [Nat.add_right_comm, Nat.add_assoc, ih hfits, dmaLoop_chunk, afterChunks]
    · rwa [afterChunks_size]
    · rw [afterChunks_size, afterChunks_count _ _ _ hfits]
      omega

/-! ### The stop handler -/

theorem exec_dma_stop {k : Kind} {dir : DmaDir} {mode : DmaMode} {rect : Bool} (h : (k, dir, mode, rect) ∈ dmaKinds)
    (s : State) : exec (k.instr .stop) s = dmaRun dir mode rect s := by
  simp only [dmaKinds, List.mem_cons, Prod.mk.injEq, List.not_mem_nil, or_false] at h
  obtain ⟨rfl, rfl, rfl, rfl⟩ | ⟨rfl, rfl, rfl, rfl⟩ | ⟨rfl, rfl, rfl, rfl⟩ | ⟨rfl, rfl, rfl, rfl⟩ |
    ⟨rfl, rfl, rfl, rfl⟩ | ⟨rfl, rfl, rfl, rfl⟩ := h <;> rfl

/-- With a size the whole chunks are issued first; what is then left of the fuel meets what is left of the count. -/
theorem dmaRun_wholeChunks (dir : DmaDir) (mode : DmaMode) (rect : Bool) {s : State} (hs : s.rectSize ≠ 0) :
    dmaRun dir mode rect s =
      dmaLoop dir mode rect (s.dmaCount.toNat - s.dmaCount.toNat / s.rectSize.toNat)
        (afterChunks dir mode rect s (s.dmaCount.toNat / s.rectSize.toNat)) := by
  rw [← dmaLoop_afterChunks dir mode rect hs (Nat.div_mul_le_self ..), Nat.add_sub_cancel' (Nat.div_le_self ..)]
  rfl

/-- After the whole chunks the remainder is left (R243). -/
theorem wholeChunks_count (dir : DmaDir) (mode : DmaMode) (rect : Bool) (s : State) :
    (afterChunks dir mode rect s (s.dmaCount.toNat / s.rectSize.toNat)).dmaCount.toNat =
      s.dmaCount.toNat % s.rectSize.toNat := by
  rw [afterChunks_count _ _ _ (Nat.div_mul_le_self ..), Nat.mod_eq_sub_div_mul]

theorem dmaReady.mod_eq_zero {s : State} (h : dmaReady s) : s.dmaCount.toNat % s.rectSize.toNat = 0 := by
  by_cases h0 : s.dmaCount = 0
  · simp [h0]
  · exact (h h0).2

theorem dmaRun_nothing (dir : DmaDir) (mode : DmaMode) (rect : Bool) {s : State} (h : s.dmaCount = 0) :
    dmaRun dir mode rect s = .next (afterChunks dir mode rect s 0) :=
  dmaLoop_done dir mode rect s.dmaCount.toNat h

/-- With the preconditions met the whole chunks leave nothing. -/
theorem wholeChunks_done (dir : DmaDir) (mode : DmaMode) (rect : Bool) {s : State} (h : dmaReady s) :
    (afterChunks dir mode rect s (s.dmaCount.toNat / s.rectSize.toNat)).dmaCount = 0 :=
  BitVec.eq_of_toNat_eq ((wholeChunks_count dir mode rect s).trans h.mod_eq_zero)

/-- With the preconditions met the whole chunks are all there is to do (R240, R246). -/
theorem dmaRun_ready (dir : DmaDir) (mode : DmaMode) (rect : Bool) {s : State} (h : dmaReady s) :
    dmaRun dir mode rect s =
      .next (afterChunks dir mode rect s (s.dmaCount.toNat / s.rectSize.toNat)) := by
  by_cases h0 : s.dmaCount = 0
  · rw [dmaRun_nothing dir mode rect h0, h0]
    simp
  · rw [dmaRun_wholeChunks dir mode rect (h h0).1, dmaLoop_done _ _ _ _ (wholeChunks_done dir mode rect h)]

/-! ### What a completed operation has done -/

/-- A DMA operation changes no device byte outside its chunks. -/
theorem Chunked.devKnown_other {dir : DmaDir} {mode : DmaMode} {rect : Bool} {s t : State} {n : Nat}
    (h : Chunked dir mode rect s n t) {x : DevAddr}
    (hx : ∀ j < n, ∀ i < s.rectSize.toNat, chunkDev mode s j + BitVec.ofNat 24 i ≠ x) :
    t.devKnown x = s.devKnown x := by
  cases dir with
  | stash => exact (h.stashed rfl).sent.other fun j hj => hx _ (chunk_lt hj) _ (chunkOffset_lt hj)
  | fetch => rw [State.devKnown, (h.fetched rfl).plat]; rfl

/-- A DMA operation changes no host byte outside its chunks. -/
theorem Chunked.hostKnown_other {dir : DmaDir} {mode : DmaMode} {rect : Bool} {s t : State} {n : Nat}
    (h : Chunked dir mode rect s n t) {a : HostAddr}
    (ha : ∀ j < n, ∀ i < s.rectSize.toNat, chunkHost rect s j + BitVec.ofNat 16 i ≠ a) :
    t.hostKnown a = s.hostKnown a := by
  cases dir with
  | stash => rw [State.hostKnown, (h.stashed rfl).plat]; rfl
  | fetch => exact (h.fetched rfl).sent.other fun j hj => ha _ (chunk_lt hj) _ (chunkOffset_lt hj)

/-- Settles O45: what the loop keeps from chunk to chunk, after the last one. -/
theorem dmaIssuesItsChunks : Obligations.DmaIssuesItsChunks := by
  intro k dir mode rect hk s n hready hn
  have hzero := wholeChunks_done dir mode rect hready
  have hrun := dmaRun_ready dir mode rect hready
  rw [← hn] at hzero hrun
  have h := chunked dir mode rect s n
  refine ⟨_, (exec_dma_stop hk s).trans hrun, ?_, h.events, h.devLen, fun hd => (h.stashed hd).plat,
    fun hd => (h.fetched hd).plat, fun x => h.devKnown_other, fun a => h.hostKnown_other⟩
  rw [← h.atChunk.cur, ← h.atChunk.dcur, ← hzero]
  conv_lhs => rw [h.frame]
  rw [h.frame]

/-! ### What the commands leave in memory -/

section
variable {s : State} {k : Kind} {mode : DmaMode} {rect : Bool}

/-- In plain RAM a stash leaves each host byte at its device address, where no later byte goes to the same one. -/
theorem exec_stash_devKnown (hk : (k, .stash, mode, rect) ∈ dmaKinds) (hplain : s.plainRam) (hready : dmaReady s) :
    ∃ t, exec (k.instr .stop) s = .next t ∧ ∀ j < s.dmaCount.toNat,
      (∀ i, j < i → i < s.dmaCount.toNat → byteDev mode s i ≠ byteDev mode s j) →
      t.devKnown (byteDev mode s j) = some (s.hostByte (byteHost rect s j)) := by
  have hsent := ((chunked .stash mode rect s (s.dmaCount.toNat / s.rectSize.toNat)).stashed rfl).sent
  rw [Nat.div_mul_cancel (Nat.dvd_of_mod_eq_zero hready.mod_eq_zero)] at hsent
  exact ⟨_, (exec_dma_stop hk s).trans (dmaRun_ready .stash mode rect hready), hsent.last hplain⟩

/-- In plain RAM a fetch leaves each device byte at its host address, where no later byte goes to the same one. -/
theorem exec_fetch_hostKnown (hk : (k, .fetch, mode, rect) ∈ dmaKinds) (hplain : s.plainRam) (hready : dmaReady s) :
    ∃ t, exec (k.instr .stop) s = .next t ∧ ∀ j < s.dmaCount.toNat,
      (∀ i, j < i → i < s.dmaCount.toNat → byteHost rect s i ≠ byteHost rect s j) →
      t.hostKnown (byteHost rect s j) = some (s.devByte (byteDev mode s j)) := by
  have hsent := ((chunked .fetch mode rect s (s.dmaCount.toNat / s.rectSize.toNat)).fetched rfl).sent
  rw [Nat.div_mul_cancel (Nat.dvd_of_mod_eq_zero hready.mod_eq_zero)] at hsent
  exact ⟨_, (exec_dma_stop hk s).trans (dmaRun_ready .fetch mode rect hready), hsent.last hplain⟩

end

/-- Settles O46: every byte of an operation goes to its own address, but for the rows of a host rectangle. -/
theorem dmaCopiesItsRegion : Obligations.DmaCopiesItsRegion := by
  intro s row hplain hready hrow
  have hrow : byteHost true s = row := funext fun j => (hrow j).symm
  have hlinear : byteHost false s = fun j => s.bufAddr + BitVec.ofNat 16 j := funext (byteHost_linear s)
  have hincr : byteDev .incr s = fun j => s.dmaDevAddr + BitVec.ofNat 24 j := funext (byteDev_incr s)
  have hhost : ∀ j i, j < i → i < s.dmaCount.toNat →
      s.bufAddr + BitVec.ofNat 16 i ≠ s.bufAddr + BitVec.ofNat 16 j :=
    fun j i hji hi => add_ofNat_ne s.bufAddr hji (hi.trans s.dmaCount.isLt)
  have hdev : ∀ j i, j < i → i < s.dmaCount.toNat →
      s.dmaDevAddr + BitVec.ofNat 24 i ≠ s.dmaDevAddr + BitVec.ofNat 24 j :=
    fun j i hji hi => add_ofNat_ne s.dmaDevAddr hji (hi.trans (s.dmaCount.isLt.trans (by decide)))
  refine ⟨?_, ?_, ?_, ?_, ?_, ?_⟩
  · obtain ⟨t, hrun, hmem⟩ :=
      exec_stash_devKnown (k := .dmaStash) (mode := .incr) (rect := false) (by decide) hplain hready
    rw [hincr, hlinear] at hmem
    exact ⟨t, hrun, fun j hj => hmem j hj (hdev j)⟩
  · obtain ⟨t, hrun, hmem⟩ :=
      exec_fetch_hostKnown (k := .dmaFetch) (mode := .incr) (rect := false) (by decide) hplain hready
    rw [hincr, hlinear] at hmem
    exact ⟨t, hrun, fun j hj => hmem j hj (hhost j)⟩
  · obtain ⟨t, hrun, hmem⟩ :=
      exec_fetch_hostKnown (k := .dmaFill) (mode := .fixed) (rect := false) (by decide) hplain hready
    rw [hlinear] at hmem
    exact ⟨t, hrun, fun j hj => hmem j hj (hhost j)⟩
  · obtain ⟨t, hrun, hmem⟩ :=
      exec_stash_devKnown (k := .dmaStashRect) (mode := .incr) (rect := true) (by decide) hplain hready
    rw [hincr, hrow] at hmem
    exact ⟨t, hrun, fun j hj => hmem j hj (hdev j)⟩
  · obtain ⟨t, hrun, hmem⟩ :=
      exec_fetch_hostKnown (k := .dmaFetchRect) (mode := .incr) (rect := true) (by decide) hplain hready
    rw [hincr, hrow] at hmem
    exact ⟨t, hrun, hmem⟩
  · obtain ⟨t, hrun, hmem⟩ :=
      exec_fetch_hostKnown (k := .dmaFillRect) (mode := .fixed) (rect := true) (by decide) hplain hready
    rw [hrow] at hmem
    exact ⟨t, hrun, hmem⟩

/-! ### Violated preconditions -/

theorem eDmaSize0_mem_dmaCond {s : State} : Cond.eDmaSize0 ∈ dmaCond s ↔ s.dmaCount ≠ 0 ∧ s.rectSize = 0 := by
  unfold dmaCond
  split_ifs with hc hs hm
  · simp [hc]
  · simpa [hs] using hc
  · simpa using fun _ => hs
  · simpa using fun _ => hs

theorem eDmaMisalign_mem_dmaCond {s : State} :
    Cond.eDmaMisalign ∈ dmaCond s ↔ s.rectSize ≠ 0 ∧ s.dmaCount.toNat % s.rectSize.toNat ≠ 0 := by
  unfold dmaCond
  split_ifs with hc hs hm
  · simp [hc]
  · simp [hs]
  · simp [hm]
  · simpa [hm] using hs

/-- A count that is no multiple of the size ends in a remainder (R243, U4). -/
theorem dmaRun_misaligned (dir : DmaDir) (mode : DmaMode) (rect : Bool) {s : State} (hs : s.rectSize ≠ 0)
    (hm : s.dmaCount.toNat % s.rectSize.toNat ≠ 0) :
    dmaRun dir mode rect s =
      .refused (.dmaMisaligned (afterChunks dir mode rect s (s.dmaCount.toNat / s.rectSize.toNat))) := by
  have hpos : 0 < s.rectSize.toNat := Nat.pos_of_ne_zero fun h0 => hs (BitVec.eq_of_toNat_eq h0)
  have hleft := wholeChunks_count dir mode rect s
  have hfuel : s.dmaCount.toNat / s.rectSize.toNat < s.dmaCount.toNat := by
    refine Nat.div_lt_self (Nat.pos_of_ne_zero fun h0 => hm (by rw [h0, Nat.zero_mod])) ?_
    refine Nat.lt_of_le_of_ne hpos fun h1 => hm ?_
    rw [← h1, Nat.mod_one]
  obtain ⟨m, hone⟩ := Nat.exists_eq_succ_of_ne_zero (Nat.sub_ne_zero_of_lt hfuel)
  rw [dmaRun_wholeChunks dir mode rect hs, hone, dmaLoop_misaligned]
  · intro h0
    rw [h0] at hleft
    exact hm hleft.symm
  · rw [hleft, afterChunks_size]
    exact Nat.mod_lt _ hpos

/-- A count and no size (R243, U5). -/
theorem dmaRun_stuck (dir : DmaDir) (mode : DmaMode) (rect : Bool) {s : State} (hc : s.dmaCount ≠ 0)
    (hs : s.rectSize = 0) : dmaRun dir mode rect s = .fault (.dmaStuck (afterChunks dir mode rect s 0)) := by
  obtain ⟨n, hn⟩ := exists_toNat_eq_succ hc
  rw [dmaRun, hn]
  exact dmaLoop_stuck dir mode rect n hc hs

/-- Settles O47: no size, a remainder, no count, and whole chunks. -/
theorem dmaStopsOnAViolatedPrecondition : Obligations.DmaStopsOnAViolatedPrecondition := by
  intro k dir mode rect hk s
  rw [exec_dma_stop hk s]
  refine ⟨fun hc hs => ?_, fun hs hm => ?_, fun hc => dmaRun_nothing dir mode rect hc, fun hs hm => ?_,
    fun hsh => ?_⟩
  · rw [dmaRun_stuck dir mode rect hc hs, afterChunks, cursorInit_sizeZero hs]
  · exact ⟨_, dmaRun_misaligned dir mode rect hs hm, wholeChunks_count dir mode rect s,
      (chunked dir mode rect s _).events⟩
  · exact ⟨_, dmaRun_ready dir mode rect fun _ => ⟨hs, hm⟩⟩
  · rw [stopConds, hsh]
    exact ⟨eDmaSize0_mem_dmaCond, eDmaMisalign_mem_dmaCond⟩

end Sys2Proof.Machine
end

section
/-! SUPPORT. RUN, and what stays unknown once the host processor is released (46_run.md R260 to R262; U6). -/

namespace Sys2Proof.Machine

/-! ### The stop handler of RUN -/

theorem runBuffer_enabled {s : State} (h : s.cfg.execEnable = true) : runBuffer s = execHost s.bufAddr s := if_pos h

theorem runBuffer_disabled {s : State} (h : s.cfg.execEnable = false) : runBuffer s = s := if_neg (by simp [h])

/-! ### A released platform -/

theorem Platform.chip_release (p : Platform) (c : Chip) : p.release.chip c = [] := ite_self _

theorem Platform.hostRead_fst_released {p : Platform} (hr : p.released = true) (c : Config) (a : HostAddr) :
    (p.hostRead c a).1 = Config.freeByte p.free := by simp [hostRead, keeps, hr]

theorem Platform.devRead_fst_released {p : Platform} (hr : p.released = true) (d : DevAddr) :
    (p.devRead d).1 = Config.freeByte p.free := by simp [devRead, hr]

theorem Platform.chipReg_released {p : Platform} (hr : p.released = true) (c : Config) (chip : Chip) (o : Offset) :
    p.chipReg c chip o = none := by simp [chipReg, keepsChip, hr]

theorem Platform.lengthAfter_released {p : Platform} (hr : p.released = true) : p.lengthAfter = .unknown := if_pos hr

/-! ### A stop handler, a byte and a step under a released host processor -/

theorem runStop_keeps_released {sh : StopHandler} {s t : State} (h : runStop sh s = .next t)
    (hr : s.plat.released = true) : t.plat.released = true := by
  obtain ⟨-, -, -, -, -, -, -, -, -, -, hrel, -⟩ := runStop_eq h
  by_cases hkept : t.plat.released = s.plat.released
  · exact hkept.trans hr
  · obtain ⟨-, ht⟩ := hrel hkept
    exact ht

theorem runStop_keeps_unknownLength {sh : StopHandler} {s t : State} (h : runStop sh s = .next t)
    (hr : s.plat.released = true) (hl : s.plat.devLen = .unknown) : t.plat.devLen = .unknown := by
  obtain ⟨-, -, -, -, -, -, -, -, -, -, -, hkept | hafter | hforgot⟩ := runStop_eq h
  · exact hkept.trans hl
  · exact hafter.trans (Platform.lengthAfter_released hr)
  · exact hforgot

/-- Only a frame stop touches the released flag or the device's length register. -/
theorem stepByte_releasedAndLength {b : Byte} {s t : State} (h : stepByte b s = .next t) :
    (t.plat.released = s.plat.released ∧ t.plat.devLen = s.plat.devLen) ∨
    ∃ u, runStop s.sh s = .next u ∧ t.plat = u.plat := by
  obtain ⟨-, rfl⟩ | ⟨-, u, hrun, rfl⟩ | ⟨-, rfl⟩ | ⟨-, -, rfl⟩ | ⟨-, -, rfl⟩ | ⟨-, -, ht, -⟩ | ⟨-, -, hrun⟩ :=
    stepByte_cases h
  -- frame start
  · exact .inl ⟨rfl, rfl⟩
  -- frame stop
  · exact .inr ⟨u, hrun, rfl⟩
  -- a real-time byte
  · exact .inl ⟨rfl, rfl⟩
  -- a data byte in IDLE
  · exact .inl ⟨rfl, rfl⟩
  -- a data byte in AWAIT_MANUF
  · exact .inl ⟨rfl, rfl⟩
  -- a data byte in DISPATCH
  · rw [ht]
    exact .inl ⟨rfl, rfl⟩
  -- a data byte in DATA
  · obtain ⟨ht, -⟩ := runData_eq hrun
    rw [ht]
    exact .inl ⟨rfl, rfl⟩

theorem stepByte_keeps_released {b : Byte} {s t : State} (h : stepByte b s = .next t) (hr : s.plat.released = true) :
    t.plat.released = true ∧ (s.plat.devLen = .unknown → t.plat.devLen = .unknown) := by
  obtain ⟨hrel, hlen⟩ | ⟨u, hrun, hplat⟩ := stepByte_releasedAndLength h
  · exact ⟨hrel.trans hr, hlen.trans⟩
  · rw [hplat]
    exact ⟨runStop_keeps_released hrun hr, runStop_keeps_unknownLength hrun hr⟩

theorem step_keeps_released {s t : State} (h : step s = .next t) (hr : s.plat.released = true) :
    t.plat.released = true ∧ (s.plat.devLen = .unknown → t.plat.devLen = .unknown) := by
  cases hq : s.plat.rxq with
  | nil => rw [step_nil hq] at h; cases h; exact ⟨hr, id⟩
  | cons b rest =>
    rw [step_cons hq] at h
    have htaken := stepByte_keeps_released h hr
    exact htaken

/-- Settles O25: every step keeps the released flag and an unknown length, and a released platform answers reads with
free bytes and gives no chip register a value. -/
theorem afterExecNothingOutsideIsKnown : Obligations.AfterExecNothingOutsideIsKnown :=
  ⟨fun _ _ hr h => step_keeps_released h hr, fun s hr =>
    ⟨fun a d => ⟨Platform.hostRead_fst_released hr s.cfg a, Platform.devRead_fst_released hr d⟩,
      Platform.chipReg_released hr s.cfg⟩⟩

/-- Settles O24: without EXEC_ENABLE the stop handler is the identity, and with it the state after Exec is that of a
released platform, whose memories list nothing. -/
theorem runHandsTheHostOver : Obligations.RunHandsTheHostOver := by
  intro s
  have hstop : exec (.run .stop) s = .next (runBuffer s) := rfl
  refine ⟨fun hoff => by rw [hstop, runBuffer_disabled hoff], fun hon => ?_⟩
  rw [hstop, runBuffer_enabled hon]
  refine ⟨_, rfl, rfl, rfl, rfl, rfl, rfl, rfl, fun _ => rfl, fun _ => rfl, fun c o => ⟨?_, ?_⟩⟩
  · exact congrArg (Memory.get? · o.val) (Platform.chip_release _ c)
  · exact Platform.chipReg_released rfl _ c o

end Sys2Proof.Machine
end

section
/-! SUPPORT. The conditions (60_exceptions.md R270, R274): how many a step raises, and which of them stop the machine
(43_rect.md R205; 45_dma.md R243). -/

namespace Sys2Proof.Machine

/-! ### How many conditions a step raises -/

theorem rectCond_length_le_one (rect : Bool) (n : BitVec 16) (s : State) : (rectCond rect n s).length ≤ 1 := by
  unfold rectCond
  split <;> simp

theorem dmaCond_length_le_one (s : State) : (dmaCond s).length ≤ 1 := by
  unfold dmaCond
  split_ifs <;> simp

theorem stopConds_length_le_one (s : State) : (stopConds s).length ≤ 1 := by
  unfold stopConds
  cases s.sh with
  | updCommit sel => dsimp only; split <;> simp
  | flush bank => dsimp only; split <;> simp
  | fill rect => exact rectCond_length_le_one rect _ s
  | copy rect => exact rectCond_length_le_one rect _ s
  | dma dir mode rect => exact dmaCond_length_le_one s
  | nop => simp
  | play x => simp
  | run => simp

theorem dataConds_length_le_one (s : State) : (dataConds s).length ≤ 1 := by
  unfold dataConds
  split
  -- UPD_REG
  · split <;> simp
  -- a load to a record
  · split <;> simp
  -- a load to host memory
  · split <;> simp
  -- no data handler, and UPD_MASK
  · simp
  · simp

/-- Settles O48: only a frame start can raise two conditions, and then the frame it aborts is a register frame with an
index byte waiting. -/
theorem atMostOneConditionAStep : Obligations.AtMostOneConditionAStep := by
  intro b s
  unfold conditions
  cases classify b with
  | frameStart =>
    by_cases hf : s.fstate = .data
    · by_cases hd : dangling s = true
      · exact .inr (by simp [hf, hd])
      · exact .inl (by simp [hf, hd])
    · exact .inl (by simp [hf])
  | frameStop =>
    cases s.fstate with
    | data => exact .inl (stopConds_length_le_one s)
    | idle => simp
    | awaitManuf => simp
    | dispatch => simp
  | realTime => simp
  | data =>
    cases s.fstate with
    | data => exact .inl (dataConds_length_le_one s)
    | idle => simp
    | awaitManuf => dsimp only; split <;> simp
    | dispatch => dsimp only; split <;> simp

/-! ### Which conditions stop the machine -/

/-- No condition of the list is one after which the spec leaves the behaviour unspecified (R205, R243). -/
abbrev Unstopped (cs : List Cond) : Prop :=
  Cond.eRectSize0 ∉ cs ∧ Cond.eDmaMisalign ∉ cs ∧ Cond.eDmaSize0 ∉ cs

theorem unstopped_nil : Unstopped [] := ⟨nofun, nofun, nofun⟩

theorem Unstopped.ite {p : Prop} [Decidable p] {cs ds : List Cond} (hc : Unstopped cs) (hd : Unstopped ds) :
    Unstopped (if p then cs else ds) := by
  split <;> assumption

theorem unstopped_if_eRectSize0_iff {p : Prop} [Decidable p] : Unstopped (if p then [.eRectSize0] else []) ↔ ¬ p := by
  by_cases hp : p <;> simp [Unstopped, hp]

theorem unstopped_rectCond_iff {rect : Bool} {n : BitVec 16} {s : State} :
    Unstopped (rectCond rect n s) ↔ rectReady rect n.toNat s := by
  have hzero : n.toNat ≠ 0 ↔ n ≠ 0 := BitVec.toNat_ne_iff_ne (y := 0)
  rw [rectCond, unstopped_if_eRectSize0_iff, rectReady, hzero]
  tauto

theorem unstopped_dmaCond_iff {s : State} : Unstopped (dmaCond s) ↔ dmaReady s := by
  unfold dmaCond dmaReady
  split_ifs with hc hs hm
  · exact iff_of_true unstopped_nil fun h => absurd hc h
  · exact iff_of_false (by decide) fun h => (h hc).1 hs
  · exact iff_of_true unstopped_nil fun _ => ⟨hs, hm⟩
  · exact iff_of_false (by decide) fun h => hm (h hc).2

/-! ### When a handler completes -/

/-- The result is a next state. -/
abbrev Completes (r : Result) : Prop := ∃ t, r = .next t

theorem completes_andThen_iff {r : Result} {f : State → State} :
    Completes (andThen r fun s => .next (f s)) ↔ Completes r := by
  cases r <;> simp [andThen]

theorem fillRun_completes_iff {rect : Bool} {s : State} :
    Completes (fillRun rect s) ↔ rectReady rect s.fillCount.toNat s := by
  refine ⟨?_, fun hready => ?_⟩
  · rintro ⟨t, h⟩ rfl hn hs
    rw [fillRun_sizeZero hs (BitVec.toNat_ne_iff_ne.1 hn), fillOnce_sizeZero (s := cursorInit s) hs] at h
    cases h
  · obtain ⟨t, hrun, -⟩ := fillRun_filled hready
    exact ⟨t, hrun⟩

theorem copyRun_completes_iff {rect : Bool} {s : State} :
    Completes (copyRun rect s) ↔ rectReady rect s.copyCount.toNat s := by
  refine ⟨?_, fun hready => ?_⟩
  · rintro ⟨t, h⟩ rfl hn hs
    rw [copyRun_sizeZero hs (BitVec.toNat_ne_iff_ne.1 hn), copyOnce_sizeZero (s := cursorInit s) hs] at h
    cases h
  · obtain ⟨t, hrun, -⟩ := copyRun_copied hready
    exact ⟨t, hrun⟩

theorem dmaRun_completes_iff {dir : DmaDir} {mode : DmaMode} {rect : Bool} {s : State} :
    Completes (dmaRun dir mode rect s) ↔ dmaReady s := by
  refine ⟨?_, fun hready => ⟨_, dmaRun_ready dir mode rect hready⟩⟩
  rintro ⟨t, h⟩ hc
  by_cases hs : s.rectSize = 0
  · rw [dmaRun_stuck dir mode rect hc hs] at h
    cases h
  · by_cases hm : s.dmaCount.toNat % s.rectSize.toNat = 0
    · exact ⟨hs, hm⟩
    · rw [dmaRun_misaligned dir mode rect hs hm] at h
      cases h

theorem loadByte_mem_completes_iff {rect : Bool} {b : Byte} {s : State} :
    Completes (loadByte .mem rect b s) ↔ (rect = true → s.ldPending ≠ 0 → s.rectSize ≠ 0) := by
  refine ⟨?_, fun hready => runData_total (dh := .load .mem rect) ?_⟩
  · rintro ⟨t, h⟩ rfl hp hs
    have hstop := storeMem_sizeZero (s := withMask (s.ldMask >>> 1) (s.ldPending - 1) s) hs
    rw [loadByte_owed hp, storeDecoded, hstop] at h
    cases h
  · intro rect' hload
    cases hload
    exact hready

/-- A stop handler completes exactly when it raises none of the three conditions. -/
theorem runStop_completes_iff (s : State) : Completes (runStop s.sh s) ↔ Unstopped (stopConds s) := by
  unfold stopConds
  cases s.sh with
  | fill rect => exact fillRun_completes_iff.trans unstopped_rectCond_iff.symm
  | copy rect => exact copyRun_completes_iff.trans unstopped_rectCond_iff.symm
  | dma dir mode rect => exact dmaRun_completes_iff.trans unstopped_dmaCond_iff.symm
  | updCommit sel => exact iff_of_true ⟨_, rfl⟩ (unstopped_nil.ite (by decide))
  | flush bank => exact iff_of_true ⟨_, rfl⟩ (.ite (by decide) unstopped_nil)
  | nop => exact iff_of_true ⟨_, rfl⟩ unstopped_nil
  | play x => exact iff_of_true ⟨_, rfl⟩ unstopped_nil
  | run => exact iff_of_true ⟨_, rfl⟩ unstopped_nil

/-- A data handler completes exactly when it raises none of the three conditions. -/
theorem runData_completes_iff (b : Byte) (s : State) : Completes (runData s.dh b s) ↔ Unstopped (dataConds s) := by
  unfold dataConds
  cases s.dh with
  | nop => exact iff_of_true ⟨_, rfl⟩ unstopped_nil
  | updMask => exact iff_of_true ⟨_, rfl⟩ unstopped_nil
  | updReg bank => exact iff_of_true ⟨_, rfl⟩ (.ite (by decide) unstopped_nil)
  | load target rect =>
    cases target with
    | record r => exact iff_of_true ⟨_, loadByte_record r rect b s⟩ (.ite (by decide) unstopped_nil)
    | mem =>
      refine loadByte_mem_completes_iff.trans (Iff.trans ?_ unstopped_if_eRectSize0_iff.symm)
      tauto

/-! ### When a byte completes -/

/-- A frame stop outside DATA has no stop handler to run, by the invariant (R135). -/
theorem stepByte_frameStop_completes_iff {s : State} (hs : s.Inv) :
    Completes (stepByte 0xF7#8 s) ↔ Unstopped (conditions 0xF7#8 s) := by
  have hhandler : Completes (stepByte 0xF7#8 s) ↔ Completes (runStop s.sh s) := completes_andThen_iff
  rw [hhandler, conditions, classify_frameStop.2 rfl]
  by_cases hf : s.fstate = .data
  · rw [hf]
    exact runStop_completes_iff s
  · obtain ⟨-, hsh⟩ := hs.outside hf
    refine iff_of_true ⟨s, by rw [hsh]; rfl⟩ ?_
    cases hf' : s.fstate with
    | data => exact absurd hf' hf
    | idle =>
      have hstray : Unstopped [.eStrayStop] := by decide
      exact hstray
    | awaitManuf => exact unstopped_nil
    | dispatch => exact unstopped_nil

/-- A data byte can stop the machine in DATA only: a command byte always completes (R128). -/
theorem stepByte_data_completes_iff {b : Byte} {s : State} (hc : classify b = .data) :
    Completes (stepByte b s) ↔ Unstopped (conditions b s) := by
  rw [conditions, hc]
  cases hf : s.fstate with
  | idle => exact iff_of_true ⟨_, (stepByte_data hc s).trans (dataByte_idle hf)⟩ unstopped_nil
  | awaitManuf =>
    exact iff_of_true ⟨_, (stepByte_data hc s).trans (dataByte_awaitManuf hf)⟩ (unstopped_nil.ite (by decide))
  | dispatch =>
    obtain ⟨t, hstart, -⟩ := startHandler_eq hc { s with cmd := b.setWidth 7 }
    rw [stepByte_dispatch hc hf, hstart, andThen_next]
    exact iff_of_true ⟨_, rfl⟩ (.ite (by decide) unstopped_nil)
  | data =>
    rw [stepByte_inData hc hf]
    exact runData_completes_iff b s

/-- From a state that meets the invariant a byte completes exactly when it raises none of the three conditions. -/
theorem stepByte_completes_iff {b : Byte} {s : State} (hs : s.Inv) :
    Completes (stepByte b s) ↔ Unstopped (conditions b s) := by
  cases hc : classify b with
  | frameStart =>
    obtain rfl := classify_frameStart.1 hc
    refine iff_of_true ⟨_, stepByte_frameStart s⟩ ?_
    rw [conditions, hc]
    dsimp only
    split_ifs <;> decide
  | frameStop =>
    obtain rfl := classify_frameStop.1 hc
    exact stepByte_frameStop_completes_iff hs
  | realTime =>
    refine iff_of_true ⟨_, stepByte_realTime hc s⟩ ?_
    rw [conditions, hc]
    exact unstopped_nil
  | data => exact stepByte_data_completes_iff hc

/-- Settles O49: taking the byte from RXQ is outside the invariant and outside the conditions, so the step is what the
byte does. -/
theorem onlyThreeConditionsStopTheMachine : Obligations.OnlyThreeConditionsStopTheMachine := by
  intro s b rest hs hq
  have htaken : { s with rxpend := false, plat := { s.plat with rxq := rest } }.Inv := { hs with }
  rw [step_cons hq]
  exact stepByte_completes_iff htaken

end Sys2Proof.Machine
end

section
/-! SUPPORT. The reset state and the reset input (70_reset_and_hazards.md R300, R301): the registers, what is known
outside the engine, and the invariant. -/

namespace Sys2Proof.Machine

/-! ### The registers -/

/-- The reset input leaves the registers of State.reset around the platform and the parameters (R300). -/
theorem eq_reset_of_resetInput_or_reset {s t : State} (h : t = resetInput s ∨ t = State.reset) :
    t = { State.reset with plat := t.plat, cfg := t.cfg } := by
  obtain rfl | rfl := h <;> rfl

theorem shadowAt_eq_zero_of_reset {t : State} (h : t.shadow = State.reset.shadow) (c : Chip) (o : Offset) :
    shadowAt t c o = 0 := by
  unfold shadowAt
  rw [h]
  simp [State.reset]

theorem reset_ubuf_eq_zero (i : Fin 36) : State.reset.ubuf[i] = 0 := by simp [State.reset]

theorem rectSkip_eq_zero_of_inc {t : State} (h : t.rectInc = 0) : rectSkip t = 0 := by
  simp [rectSkip, skipOf, h]

/-- Settles O1: the registers are those of State.reset, of which only the two arrays and RECT_SKIP need an argument. -/
theorem resetLeavesTheStateOfR300 : Obligations.ResetLeavesTheStateOfR300 := by
  intro s t h
  rw [eq_reset_of_resetInput_or_reset h]
  exact ⟨rfl, rfl, rfl, rfl, rfl, shadowAt_eq_zero_of_reset rfl, reset_ubuf_eq_zero, rfl, rfl, rfl, rfl, rfl, rfl, rfl,
    rfl, rfl, rfl, rfl, rfl, rfl, rfl, rfl, rectSkip_eq_zero_of_inc rfl, rfl, rfl, rfl, rfl⟩

/-! ### What is known outside -/

theorem Platform.chip_forget (p : Platform) (c : Chip) : p.forget.chip c = [] := ite_self _

/-- Forgetting does not touch the released flag, so what was plain RAM still is, and reads as the next epoch. -/
theorem Platform.hostRead_fst_forget {p : Platform} {c : Config} {a : HostAddr} (h : p.keeps c a = true) :
    (p.forget.hostRead c a).1 = Config.powerOnHost (p.epoch + 1) a := by
  have hkeeps : p.forget.keeps c a = true := h
  rw [hostRead_keeps hkeeps]
  rfl

/-- Settles O2: the reset input forgets the memories, the chips and the device's length, and nothing else outside. -/
theorem resetKeepsTheQueueAndKnowsNoMemory : Obligations.ResetKeepsTheQueueAndKnowsNoMemory := by
  rintro s _ rfl
  have hchip (c : Chip) (o : Offset) : (resetInput s).chipKnown c o = none :=
    congrArg (Memory.get? · o.val) (Platform.chip_forget s.plat c)
  exact ⟨rfl, rfl, fun _ => rfl, fun _ => rfl, hchip, rfl, rfl, rfl, fun _ => Platform.hostRead_fst_forget⟩

/-! ### The invariant -/

theorem Platform.inv_powerOn : Platform.powerOn.Inv :=
  ⟨⟨powerOn_memWf, nofun⟩, fun _ => nofun, nofun⟩

/-- Nothing is listed after forgetting, whether an Exec has released the host processor or not. -/
theorem Platform.inv_forget (p : Platform) : p.forget.Inv :=
  ⟨⟨memWf_forget p, fun _ => ⟨rfl, rfl, rfl, rfl⟩⟩, fun _ => nofun, fun _ => rfl⟩

theorem inv_reset_of_platform {p : Platform} (h : p.Inv) (c : Config) : { State.reset with plat := p, cfg := c }.Inv :=
  .of_nop nofun rfl rfl (Nat.zero_le 37) h

/-- Settles O3: the registers of State.reset meet the invariant around every platform that does. -/
theorem resetMeetsTheInvariant : Obligations.ResetMeetsTheInvariant :=
  ⟨inv_reset_of_platform Platform.inv_powerOn Config.standard,
    fun s => inv_reset_of_platform (Platform.inv_forget s.plat) s.cfg⟩

end Sys2Proof.Machine
end
